-- ==== Sys2Proof/Word.lean ====
section
/-! DEFINITION. The word type of the CORE (16 bits, spec/00_scope.md R7, R9), the bytes of a program
image, and the register numbers of an instruction word. -/

namespace Sys2Proof

/-- Register, data, address and instruction word: 16 bits (R7). Arithmetic wraps modulo 2^16 (R9). -/
abbrev Word := BitVec 16

/-- A byte of a program image, or half of a packed word (R54). -/
abbrev Byte := BitVec 8

/-- A 3-bit register field; the unsigned index 0..7 names R0..R7 (R82, R85). -/
abbrev Reg := BitVec 3

end Sys2Proof
end

