-- ==== Sys2Proof/Config.lean ====
section
/-! DEFINITION. What the spec leaves to the implementation: its parameters (spec/00_scope.md R8), each
with the spec's default, and the free values of the model. -/

namespace Sys2Proof

/-- COND's flag values (spec/10_state.md R24, the spec's decision 92 D3). -/
def condPositive : Word := 0x0001#16
/-- ZERO (R24, 92 D3). -/
def condZero : Word := 0x0002#16
/-- NEGATIVE (R24, 92 D3). -/
def condNegative : Word := 0x0004#16

/-- The open parameters of R8, with the spec's values as defaults. They are fixed for a run: the state
carries them and no step writes them, so that a statement over all states is a statement over all
parameter values (log entry 3, DESIGN CHOICE, safe). -/
structure Config where
  /-- KBSR_ADDR (R29, 92 D1). -/
  kbsrAddr : Word := 0xFE00#16
  /-- KBDR_ADDR (R29, 92 D1). -/
  kbdrAddr : Word := 0xFE02#16
  /-- COND_RESET (R252, 92 D5). -/
  condReset : Word := condZero
  /-- GPR_RESET (R251, 92 D4). -/
  gprReset : Word := 0x0000#16
  /-- TRAP_LINKS_R7 (R180, 92 D8). -/
  trapLinksR7 : Bool := false
  /-- TRAP_IN_SETS_FLAGS (R185, R193, 92 D9). -/
  trapInSetsFlags : Bool := false
  deriving DecidableEq, Repr

/-- The parameter values the spec admits: KBSR_ADDR and KBDR_ADDR differ (92 D1), and COND_RESET is
ZERO or no flag (92 D5). -/
def Config.wf (c : Config) : Bool :=
  c.kbsrAddr != c.kbdrAddr && (c.condReset == condZero || c.condReset == 0x0000#16)

/-- FREE VALUE (log entry 6, safe): the host's answer to the `n`-th poll for which the state holds no
answer. `none` is no key or a device error (R232); `some c` is any 16-bit code (93 I11). No body: nothing
can be proved of its value. -/
opaque Config.freePoll : Nat → Option (BitVec 16)

/-- FREE VALUE (log entry 7, safe): what the host does at the `n`-th try of a blocking read for which the
state holds nothing. `none`: the read waits on (R31, R233); `some c`: the key `c`, any 16-bit code (93 I12).
No body: nothing can be proved of its value. -/
opaque Config.freeKey : Nat → Option (BitVec 16)

end Sys2Proof
end

