-- ==== Sys2Proof/Machine/State.lean ====
section
/-! DEFINITION. The state of the CORE as plain data (spec/10_state.md R20-R35) with the model's own
fields for the host's answers, the reasons a step can stop, and the state after reset. -/

namespace Sys2Proof.Machine

/-- One memory cell: an address (below 65536) and the word it holds. The word is the smallest unit the
CORE addresses (spec/20_memory.md R50, R53; log entry 1). -/
abbrev Cell := Nat × Word

/-- Memory: the words that are not 0x0000, by rising address. An unlisted word reads 0x0000, as every
word does at reset (R253; log entry 2). -/
abbrev Memory := List Cell

/-- The run status (R30). -/
inductive RunStatus where
  /-- The loop takes steps. -/
  | running
  /-- The terminal state, entered by HALT or by the interrupt signal. -/
  | halted
  deriving DecidableEq, Repr

/-- The exit code the CORE signals: 0 with Halted, none while it runs (R30, R235). -/
def RunStatus.exitCode : RunStatus → Option Nat
  | .running => none
  | .halted => some 0

/-- An output event (R234). -/
inductive Event where
  /-- The character code `c` (OUT, PUTS, PUTSP, and IN's echo). -/
  | out (c : Word)
  /-- IN's prompt, its text unspecified (92 D10). -/
  | prompt
  /-- The halt message, its text unspecified (92 D10). -/
  | haltMsg
  deriving DecidableEq, Repr

/-- What an instruction that has not completed is in the middle of (R31, R244). -/
inductive Activity where
  /-- No instruction is unfinished: the next step begins at an instruction boundary. -/
  | idle
  /-- GETC waits for a key (R31). -/
  | waitGetc
  /-- IN has emitted its prompt and waits for a key (R31). -/
  | waitIn
  /-- PUTS goes on with the word at this address (log entry 9). -/
  | puts (a : Word)
  /-- PUTSP goes on with the word at this address (log entry 9). -/
  | putsp (a : Word)
  deriving DecidableEq, Repr

/-- The whole state. The fields up to `output` are the spec's; `config` holds the spec's parameters;
`polls`, `pollCount`, `keys`, `keyCount` and `signal` are the model's own and hold what the host will do
(log entries 6, 7, 8). -/
structure State where
  /-- R0 to R7 (R21). -/
  regs : Vector Word 8
  /-- The program counter (R23). -/
  pc : Word
  /-- The condition register (R24). -/
  cond : Word
  /-- Memory, the keyboard registers among its words (R32, R29). -/
  mem : Memory
  /-- Running or Halted (R30). -/
  status : RunStatus
  /-- The unfinished instruction, if any (R31). -/
  activity : Activity
  /-- The console output stream so far, oldest first (R234). -/
  output : List Event
  /-- The parameters (R8). -/
  config : Config
  /-- The host's answers to the coming polls, next first (R232). -/
  polls : List (Option Word)
  /-- How many polls the free value has answered. -/
  pollCount : Nat
  /-- What the host does at the coming tries of a blocking read, next first: deliver a key, or let the read
  wait on (R233). -/
  keys : List (Option Word)
  /-- How many tries the free value has answered. -/
  keyCount : Nat
  /-- `some n`: the interrupt signal is taken when `n` more admissible points have passed (R228-R230);
  `none`: it is not delivered. -/
  signal : Option Nat
  deriving DecidableEq, Repr

/-- The machine has no faults: "The CORE raises no architectural exception" (R220, R222). No
constructor, so no meaning can raise one. -/
inductive Fault where
  deriving DecidableEq, Repr

/-- Why a step has no meaning. -/
inductive Refusal where
  /-- Raised only by an arm of `exec` for an instruction that has no meaning yet; no arm does (safe). -/
  | notModelled (mnemonic : String)
  deriving DecidableEq, Repr

/-- The machine right after reset with the parameters `c` (R250-R255, R35), with no image loaded and
nothing said of the host (log entries 4 to 8). -/
def State.resetWith (c : Config) : State where
  regs := Vector.replicate 8 c.gprReset
  pc := 0x3000#16
  cond := c.condReset
  mem := []
  status := .running
  activity := .idle
  output := []
  config := c
  polls := []
  pollCount := 0
  keys := []
  keyCount := 0
  signal := none

/-- The machine right after reset, with the spec's parameter values (R8). -/
def State.reset : State := State.resetWith {}

end Sys2Proof.Machine
end

