-- ==== Sys2Proof/Machine/Memory.lean ====
section
/-! DEFINITION. Stored content of memory, without any side effect: the `M[a]` of spec/00_scope.md R11.
The port with the keyboard's poll is in Machine/Ops.lean. -/

namespace Sys2Proof.Machine

/-- `M[a]`: the word listed for `a`, and 0x0000 for a word that is not listed (R253). -/
def Memory.read : Memory → Word → Word
  | [], _ => 0x0000#16
  | (k, v) :: rest, a => if k = a.toNat then v else Memory.read rest a

/-- List the word `v` for address `k`, replacing what `k` held. -/
def Memory.insert : Memory → Nat → Word → Memory
  | [], k, v => [(k, v)]
  | (j, w) :: rest, k, v =>
    if j < k then (j, w) :: Memory.insert rest k v
    else if j = k then (k, v) :: rest
    else (k, v) :: (j, w) :: rest

/-- List nothing for address `k`. -/
def Memory.erase (m : Memory) (k : Nat) : Memory :=
  m.filter fun c => c.1 != k

/-- `M[a] <- v` (R57), in canonical form: the word 0x0000 is never listed. -/
def Memory.write (m : Memory) (a : Word) (v : Word) : Memory :=
  if v = 0x0000#16 then m.erase a.toNat else m.insert a.toNat v

/-- Addresses rise strictly from `lo` on, stay below 65536, and no listed word is 0x0000. -/
def Memory.risesFrom : Nat → Memory → Bool
  | _, [] => true
  | lo, (k, v) :: rest =>
    decide (lo ≤ k) && decide (k < 65536) && v != 0x0000#16 && Memory.risesFrom (k + 1) rest

/-- The canonical form of memory (log entry 2). -/
def Memory.wf (m : Memory) : Bool := Memory.risesFrom 0 m

end Sys2Proof.Machine
end

