-- ==== Sys2Proof/Machine/Operands.lean ====
section
/-! DEFINITION. Operand forms: registers, sign extension (spec/00_scope.md R10) and the addressing modes
(spec/41_memory_access.md R129). -/

namespace Sys2Proof.Machine

/-- `sext_N(v)` (R10): if the highest bit of the N-bit field is 1, OR `0xFFFF << N` into it. -/
def sext {n : Nat} (v : BitVec n) : Word :=
  if v.msb then v.setWidth 16 ||| (0xFFFF#16 <<< n) else v.setWidth 16

/-- `zext_N(v)` (R10). -/
def zext {n : Nat} (v : BitVec n) : Word := v.setWidth 16

/-- `x[i]`: the general register `i` (R21). -/
def State.reg (s : State) (i : Reg) : Word := s.regs[i.toNat]'i.isLt

/-- `x[i] <- v` (R21). -/
def State.setReg (s : State) (i : Reg) (v : Word) : State :=
  { s with regs := s.regs.set i.toNat v i.isLt }

/-- `PC <- v` (R23). -/
def State.setPc (s : State) (v : Word) : State := { s with pc := v }

/-- PC-relative effective address (R129); `PC` is the incremented PC (R12). -/
def State.eaPc (s : State) (off : BitVec 9) : Word := s.pc + sext off

/-- Base + offset effective address (R129). -/
def State.eaBase (s : State) (base : Reg) (off : BitVec 6) : Word := s.reg base + sext off

end Sys2Proof.Machine
end

