-- ==== Sys2Proof/Machine/Flags.lean ====
section
/-! DEFINITION. The condition register: its update (spec/10_state.md R25) and BR's test of it
(spec/42_control.md R150). -/

namespace Sys2Proof.Machine

/-- The flag that `setcc(v)` puts into COND (R25). -/
def condOf (v : Word) : Word :=
  if v = 0x0000#16 then condZero else if v.msb then condNegative else condPositive

/-- `setcc(v)` (R25). -/
def State.setcc (s : State) (v : Word) : State := { s with cond := condOf v }

/-- Write a destination register, then `setcc` of the value written (R25, R26). -/
def State.setRegCc (s : State) (dr : Reg) (v : Word) : State := (s.setReg dr v).setcc v

/-- BR's condition `(nzp & COND) != 0` (R150). -/
def condMet (nzp : BitVec 3) (cond : Word) : Bool := zext nzp &&& cond != 0x0000#16

end Sys2Proof.Machine
end

