-- ==== Sys2Proof/Machine/Ops.lean ====
section
/-! DEFINITION. The named operations the meanings share: the memory port with the keyboard's poll
(spec/20_memory.md R55-R57), console output, termination and the interrupt signal
(spec/60_exceptions.md R228-R234), and the entry of a TRAP (R237). -/

namespace Sys2Proof.Machine

/-! ### Updates of the model's own fields -/

/-- Leave the instruction unfinished as `a` says, or with `.idle` take up an unfinished one (R31). -/
def State.setActivity (s : State) (a : Activity) : State := { s with activity := a }

/-- What the host will do at the coming tries of a blocking read. -/
def State.setKeys (s : State) (ks : List (Option Word)) (n : Nat) : State :=
  { s with keys := ks, keyCount := n }

/-- When the interrupt signal will be taken. -/
def State.setSignal (s : State) (g : Option Nat) : State := { s with signal := g }

/-! ### The memory port -/

/-- The answer `pollKey()` gets (R232): the host's next answer, or the free value when the state holds
none (log entry 6). -/
def State.pollAnswer (s : State) : Option Word :=
  match s.polls with
  | ans :: _ => ans
  | [] => Config.freePoll s.pollCount

/-- The poll has taken its answer: "consumes that key" (R232). -/
def State.pollTaken (s : State) : State :=
  match s.polls with
  | _ :: rest => { s with polls := rest }
  | [] => { s with pollCount := s.pollCount + 1 }

/-- Latch a poll's answer into the keyboard registers (R55): with no key only KBSR is written
(90_conflicts.md C8). -/
def State.latch (s : State) (ans : Option Word) : State :=
  match ans with
  | some c =>
    { s with mem := (s.mem.write s.config.kbsrAddr 0x8000#16).write s.config.kbdrAddr c }
  | none => { s with mem := s.mem.write s.config.kbsrAddr 0x0000#16 }

/-- The state after a read at `a` (R55, R56): a read at KBSR_ADDR polls and latches, as one unit (R59);
every other read changes nothing. -/
def State.afterRead (s : State) (a : Word) : State :=
  if a = s.config.kbsrAddr then s.pollTaken.latch s.pollAnswer else s

/-- The word `MemRead(a, 1)` returns (R55). -/
def State.readWord (s : State) (a : Word) : Word := (s.afterRead a).mem.read a

/-- `MemWrite(a, 1, v)`: a plain store (R57). -/
def State.writeWord (s : State) (a : Word) (v : Word) : State :=
  { s with mem := s.mem.write a v }

/-! ### The blocking read -/

/-- What one try of `readKey()` gets (R233): the key the host delivers now, or `none` while the read waits on
(no key yet, or a device error); the free value when the state holds nothing (log entry 7). -/
def State.keyAnswer (s : State) : Option Word :=
  match s.keys with
  | ans :: _ => ans
  | [] => Config.freeKey s.keyCount

/-- The try has taken its answer. -/
def State.keyTaken (s : State) : State :=
  match s.keys with
  | _ :: rest => s.setKeys rest s.keyCount
  | [] => s.setKeys [] (s.keyCount + 1)

/-! ### Output, termination and the interrupt signal -/

/-- `emit(e)` (R234). -/
def State.emit (s : State) (e : Event) : State := { s with output := s.output ++ [e] }

/-- The termination sequence of HALT (R200), which the interrupt signal runs too (R228): the halt message,
then the terminal state with exit code 0. -/
def State.terminate (s : State) : State := { s.emit .haltMsg with status := .halted }

/-- TAKING THE INTERRUPT SIGNAL, the machine's one asynchronous event (R227, R228): the termination
sequence. It saves nothing (R237) and nothing returns from it (R238). -/
def State.takeSignal (s : State) : State := (s.setSignal none).terminate

/-- One point at which the CORE admits the signal (R228-R230): it is taken here, or the machine goes on
as `go` says. -/
def State.atPoint (s : State) (go : State → State) : State :=
  match s.signal with
  | some 0 => s.takeSignal
  | some (n + 1) => go (s.setSignal (some n))
  | none => go s

/-! ### Entering a TRAP -/

/-- The entry of a TRAP (R180, R237): no state is saved and no vector table read; R7 receives the return
address only under the parameter TRAP_LINKS_R7 (92 D8). -/
def State.trapEntry (s : State) : State :=
  if s.config.trapLinksR7 then s.setReg 7#3 s.pc else s

/-- GETC and IN write the key into R0, and COND only under TRAP_IN_SETS_FLAGS (R185, R193, 92 D9). -/
def State.storeKey (s : State) (c : Word) : State :=
  if s.config.trapInSetsFlags then s.setRegCc 0#3 c else s.setReg 0#3 c

end Sys2Proof.Machine
end

