-- ==== Sys2Proof/Machine/Control.lean ====
section
/-! DEFINITION. The control-transfer instructions (spec/42_control.md). -/

namespace Sys2Proof.Machine

/-- BR (R150, R151). -/
def execBr (nzp : BitVec 3) (off : BitVec 9) (s : State) : Host.Outcome State Fault Refusal :=
  .next (if condMet nzp s.cond then s.setPc (s.eaPc off) else s)

/-- JSR (R155). -/
def execJsr (off : BitVec 11) (s : State) : Host.Outcome State Fault Refusal :=
  .next ((s.setReg 7#3 s.pc).setPc (s.pc + sext off))

/-- JSRR (R156): R7 is written before the base is read, so JSRR R7 does not jump (R158). -/
def execJsrr (base : Reg) (s : State) : Host.Outcome State Fault Refusal :=
  .next ((s.setReg 7#3 s.pc).setPc ((s.setReg 7#3 s.pc).reg base))

/-- JMP (R160). -/
def execJmp (base : Reg) (s : State) : Host.Outcome State Fault Refusal :=
  .next (s.setPc (s.reg base))

/-- RET (R161): JMP with base R7. -/
def execRet (s : State) : Host.Outcome State Fault Refusal :=
  .next (s.setPc (s.reg 7#3))

end Sys2Proof.Machine
end

