-- ==== Sys2Proof/Machine/MemoryAccess.lean ====
section
/-! DEFINITION. The memory-access instructions (spec/41_memory_access.md). Every read goes through the
port of spec/20_memory.md R55. -/

namespace Sys2Proof.Machine

/-- `v <- MemRead(ea, 1); x[DR] <- v; setcc(v)`: the end of every load. -/
def State.loadFrom (s : State) (dr : Reg) (ea : Word) : State :=
  (s.afterRead ea).setRegCc dr (s.readWord ea)

/-- LD (R130). -/
def execLd (dr : Reg) (off : BitVec 9) (s : State) : Host.Outcome State Fault Refusal :=
  .next (s.loadFrom dr (s.eaPc off))

/-- ST (R131). -/
def execSt (sr : Reg) (off : BitVec 9) (s : State) : Host.Outcome State Fault Refusal :=
  .next (s.writeWord (s.eaPc off) (s.reg sr))

/-- LDR (R133): the base is read before the destination is written. -/
def execLdr (dr base : Reg) (off : BitVec 6) (s : State) : Host.Outcome State Fault Refusal :=
  .next (s.loadFrom dr (s.eaBase base off))

/-- STR (R134). -/
def execStr (sr base : Reg) (off : BitVec 6) (s : State) : Host.Outcome State Fault Refusal :=
  .next (s.writeWord (s.eaBase base off) (s.reg sr))

/-- LDI (R137, R138): the pointer is read first, and the data in the state after that read. -/
def execLdi (dr : Reg) (off : BitVec 9) (s : State) : Host.Outcome State Fault Refusal :=
  .next ((s.afterRead (s.eaPc off)).loadFrom dr (s.readWord (s.eaPc off)))

/-- STI (R140, R141): the pointer read goes through the port, the store is plain. -/
def execSti (sr : Reg) (off : BitVec 9) (s : State) : Host.Outcome State Fault Refusal :=
  .next ((s.afterRead (s.eaPc off)).writeWord (s.readWord (s.eaPc off)) (s.reg sr))

/-- LEA (R143): computes the address, reads no memory, and sets the flags from it. -/
def execLea (dr : Reg) (off : BitVec 9) (s : State) : Host.Outcome State Fault Refusal :=
  .next (s.setRegCc dr (s.eaPc off))

end Sys2Proof.Machine
end

