-- ==== Sys2Proof/Machine/Operate.lean ====
section
/-! DEFINITION. The operate instructions (spec/40_operate.md). -/

namespace Sys2Proof.Machine

/-- ADD, register form (R110): both sources are read before the write. -/
def execAdd (dr sr1 sr2 : Reg) (s : State) : Host.Outcome State Fault Refusal :=
  .next (s.setRegCc dr (s.reg sr1 + s.reg sr2))

/-- ADD, immediate form (R111). -/
def execAddi (dr sr1 : Reg) (imm : BitVec 5) (s : State) : Host.Outcome State Fault Refusal :=
  .next (s.setRegCc dr (s.reg sr1 + sext imm))

/-- AND, register form (R114). -/
def execAnd (dr sr1 sr2 : Reg) (s : State) : Host.Outcome State Fault Refusal :=
  .next (s.setRegCc dr (s.reg sr1 &&& s.reg sr2))

/-- AND, immediate form (R115). -/
def execAndi (dr sr1 : Reg) (imm : BitVec 5) (s : State) : Host.Outcome State Fault Refusal :=
  .next (s.setRegCc dr (s.reg sr1 &&& sext imm))

/-- NOT (R118). -/
def execNot (dr sr1 : Reg) (s : State) : Host.Outcome State Fault Refusal :=
  .next (s.setRegCc dr (~~~ s.reg sr1))

end Sys2Proof.Machine
end

