-- ==== Sys2Proof/Machine/Reserved.lean ====
section
/-! DEFINITION. The reserved opcodes (spec/43_reserved.md): no-ops that never fault, refuse or halt
(R177). The diagnostic is not architectural and is dropped (spec/60_exceptions.md R226). -/

namespace Sys2Proof.Machine

/-- RTI (R175): no effect; it restores nothing (R238). -/
def execRti (s : State) : Host.Outcome State Fault Refusal := .next s

/-- RES (R176): no effect. -/
def execRes (s : State) : Host.Outcome State Fault Refusal := .next s

end Sys2Proof.Machine
end

