-- ==== Sys2Proof/Machine/Trap.lean ====
section
/-! DEFINITION. TRAP and the trap routines (spec/44_trap.md), with the points at which a routine admits the
interrupt signal (spec/60_exceptions.md R229, R230): before each word of a string is read, before each
output event, after IN's echo, and in a wait (log entry 8). -/

namespace Sys2Proof.Machine

/-- One try of the wait of GETC (R31, R185). The signal ends the wait (R229); a key the host delivers completes
it; with no key the instruction stays unfinished, for the next try. -/
def State.getcWait (s : State) : State :=
  s.atPoint fun s =>
    match s.keyAnswer with
    | none => s.keyTaken.setActivity .waitGetc
    | some c => s.keyTaken.storeKey c

/-- One try of the wait of IN, then the echo and the write of R0 (R193). The signal may also come before or after the
echo, and R0 is then not written (R230). -/
def State.inWait (s : State) : State :=
  s.atPoint fun s =>
    match s.keyAnswer with
    | none => s.keyTaken.setActivity .waitIn
    | some c =>
      s.keyTaken.atPoint fun s =>
        (s.emit (.out c)).atPoint fun s => s.storeKey c

/-- The loop of PUTS from address `a` (R190) for at most `fuel` words; a string that has not ended by then
stays unfinished and goes on in the next step (log entry 9). -/
def putsLoop : Nat → Word → State → State
  | 0, a, s => s.setActivity (.puts a)
  | fuel + 1, a, s =>
    s.atPoint fun s =>
      if s.readWord a = 0x0000#16 then s.afterRead a
      else (s.afterRead a).atPoint fun t =>
        putsLoop fuel (a + 1#16) (t.emit (.out (s.readWord a)))

/-- The first character of a packed word (R54, R196). -/
def lowByte (w : Word) : Byte := w.extractLsb' 0 8

/-- The second character of a packed word (R54, R196). -/
def highByte (w : Word) : Byte := w.extractLsb' 8 8

/-- The loop of PUTSP from address `a` (R196), bounded as `putsLoop` is. -/
def putspLoop : Nat → Word → State → State
  | 0, a, s => s.setActivity (.putsp a)
  | fuel + 1, a, s =>
    s.atPoint fun s =>
      if lowByte (s.readWord a) = 0#8 then s.afterRead a
      else (s.afterRead a).atPoint fun t =>
        if highByte (s.readWord a) = 0#8 then t.emit (.out (zext (lowByte (s.readWord a))))
        else (t.emit (.out (zext (lowByte (s.readWord a))))).atPoint fun u =>
          putspLoop fuel (a + 1#16) (u.emit (.out (zext (highByte (s.readWord a)))))

/-- How many words of a string one step of the model reads at most: one pass over memory. -/
def stringWords : Nat := 65536

/-- GETC (R185). -/
def execGetc (s : State) : Host.Outcome State Fault Refusal := .next s.trapEntry.getcWait

/-- OUT (R188). -/
def execOut (s : State) : Host.Outcome State Fault Refusal :=
  .next (s.trapEntry.atPoint fun t => t.emit (.out (t.reg 0#3)))

/-- PUTS (R190). -/
def execPuts (s : State) : Host.Outcome State Fault Refusal :=
  .next (putsLoop stringWords (s.trapEntry.reg 0#3) s.trapEntry)

/-- IN (R193). -/
def execIn (s : State) : Host.Outcome State Fault Refusal :=
  .next (s.trapEntry.atPoint fun t => (t.emit .prompt).inWait)

/-- PUTSP (R196). -/
def execPutsp (s : State) : Host.Outcome State Fault Refusal :=
  .next (putspLoop stringWords (s.trapEntry.reg 0#3) s.trapEntry)

/-- HALT (R200). -/
def execHalt (s : State) : Host.Outcome State Fault Refusal := .next s.trapEntry.terminate

/-- TRAP (R180): the entry, then the routine of the vector; a vector that names none is a no-op (R201). The
decoder answers `getc` to `halt` for the six routine vectors, with these same meanings. -/
def execTrap (vect : BitVec 8) (s : State) : Host.Outcome State Fault Refusal :=
  if vect = 0x20#8 then execGetc s
  else if vect = 0x21#8 then execOut s
  else if vect = 0x22#8 then execPuts s
  else if vect = 0x23#8 then execIn s
  else if vect = 0x24#8 then execPutsp s
  else if vect = 0x25#8 then execHalt s
  else .next s.trapEntry

end Sys2Proof.Machine
end

