-- ==== Sys2Proof/Syntax.lean ====
section
/-! DEFINITION. The instructions: one constructor for each of the 26 rows of spec/opcode_table.json.
Fields are those of spec/30_encoding.md R82, each at its own width (R84); bits the CORE does not read
(R87) are no part of an instruction. -/

namespace Sys2Proof

/-- An instruction of the CORE. `ret` is the term for the words of JMP with BaseR = 7, and `getc` to
`halt` are the terms for the words of TRAP with vectors 0x20 to 0x25 (R93), so `jmp 7` and `trap` with
one of those six vectors are not well formed (`Instr.wf`). -/
inductive Instr where
  /-- BR (R150): the condition bits `nzp` (n is bit 2, z bit 1, p bit 0) and the offset. -/
  | br (nzp : BitVec 3) (off : BitVec 9)
  /-- ADD, register form (R110). -/
  | add (dr sr1 sr2 : Reg)
  /-- ADD, immediate form (R111). -/
  | addi (dr sr1 : Reg) (imm : BitVec 5)
  /-- LD (R130). -/
  | ld (dr : Reg) (off : BitVec 9)
  /-- ST (R131). -/
  | st (sr : Reg) (off : BitVec 9)
  /-- JSR (R155). -/
  | jsr (off : BitVec 11)
  /-- JSRR (R156). -/
  | jsrr (base : Reg)
  /-- AND, register form (R114). -/
  | and (dr sr1 sr2 : Reg)
  /-- AND, immediate form (R115). -/
  | andi (dr sr1 : Reg) (imm : BitVec 5)
  /-- LDR (R133). -/
  | ldr (dr base : Reg) (off : BitVec 6)
  /-- STR (R134). -/
  | str (sr base : Reg) (off : BitVec 6)
  /-- RTI (R175). -/
  | rti
  /-- NOT (R118). -/
  | not (dr sr1 : Reg)
  /-- LDI (R137). -/
  | ldi (dr : Reg) (off : BitVec 9)
  /-- STI (R140). -/
  | sti (sr : Reg) (off : BitVec 9)
  /-- JMP (R160). -/
  | jmp (base : Reg)
  /-- RET (R161). -/
  | ret
  /-- RES (R176). -/
  | res
  /-- LEA (R143). -/
  | lea (dr : Reg) (off : BitVec 9)
  /-- TRAP (R180) with a vector that names no routine (R201). -/
  | trap (vect : BitVec 8)
  /-- GETC, vector 0x20 (R185). -/
  | getc
  /-- OUT, vector 0x21 (R188). -/
  | out
  /-- PUTS, vector 0x22 (R190). -/
  | puts
  /-- IN, vector 0x23 (R193). -/
  | inp
  /-- PUTSP, vector 0x24 (R196). -/
  | putsp
  /-- HALT, vector 0x25 (R200). -/
  | halt
  deriving DecidableEq, Repr

end Sys2Proof
end

