-- ==== Sys2Proof/WellFormed.lean ====
section
/-! DEFINITION. Well-formed instructions: the terms the decoder can answer, one for each word
(spec/30_encoding.md R90, R93). -/

namespace Sys2Proof

/-- The vector names one of the six trap routines (spec/44_trap.md R181). -/
def isRoutineVector (v : BitVec 8) : Bool :=
  v == 0x20#8 || v == 0x21#8 || v == 0x22#8 || v == 0x23#8 || v == 0x24#8 || v == 0x25#8

/-- `jmp` has a base other than R7 (that word is `ret`, R161) and `trap` a vector that names no routine
(those words are `getc` to `halt`, R93). Every field is in range by its type. -/
def Instr.wf : Instr → Bool
  | .jmp base => base != 7#3
  | .trap v => !isRoutineVector v
  | .br _ _ | .add _ _ _ | .addi _ _ _ | .ld _ _ | .st _ _ | .jsr _ | .jsrr _ | .and _ _ _
  | .andi _ _ _ | .ldr _ _ _ | .str _ _ _ | .rti | .not _ _ | .ldi _ _ | .sti _ _ | .ret | .res
  | .lea _ _ | .getc | .out | .puts | .inp | .putsp | .halt => true

end Sys2Proof
end

