-- ==== Sys2Proof/Decode.lean ====
section
/-! DEFINITION. The decoder, total on every word (spec/30_encoding.md R80-R91), the encoder from the same
layouts (R83), and the rows of spec/opcode_table.json. -/

namespace Sys2Proof

/-! ### Fields (R82) -/

/-- `instr[11:9]`: DR, SR or nzp. -/
def field11 (w : Word) : BitVec 3 := w.extractLsb' 9 3
/-- `instr[8:6]`: SR1 or BaseR. -/
def field8 (w : Word) : BitVec 3 := w.extractLsb' 6 3
/-- `instr[2:0]`: SR2. -/
def field2 (w : Word) : BitVec 3 := w.extractLsb' 0 3
/-- `instr[4:0]`: imm5. -/
def imm5 (w : Word) : BitVec 5 := w.extractLsb' 0 5
/-- `instr[5:0]`: offset6. -/
def offset6 (w : Word) : BitVec 6 := w.extractLsb' 0 6
/-- `instr[8:0]`: PCoffset9. -/
def pcOffset9 (w : Word) : BitVec 9 := w.extractLsb' 0 9
/-- `instr[10:0]`: PCoffset11. -/
def pcOffset11 (w : Word) : BitVec 11 := w.extractLsb' 0 11
/-- `instr[7:0]`: trapvect8, masked (R84). -/
def trapvect8 (w : Word) : BitVec 8 := w.extractLsb' 0 8
/-- `instr[5]`: the immediate flag I. -/
def flagI (w : Word) : Bool := w.getLsbD 5
/-- `instr[11]`: the long flag L. -/
def flagL (w : Word) : Bool := w.getLsbD 11

/-! ### The decoder -/

/-- The words of opcode 0xC: RET is JMP with BaseR = 7 (R93, R161). -/
def decodeJmp (base : Reg) : Instr := if base = 7#3 then .ret else .jmp base

/-- The words of opcode 0xF, by their vector (R86, R93, R181). -/
def decodeTrap (v : BitVec 8) : Instr :=
  if v = 0x20#8 then .getc
  else if v = 0x21#8 then .out
  else if v = 0x22#8 then .puts
  else if v = 0x23#8 then .inp
  else if v = 0x24#8 then .putsp
  else if v = 0x25#8 then .halt
  else .trap v

/-- The instruction of a word, by the four bits of its opcode (R81, R86) and, inside opcodes 0x1 and 0x5,
`I`, and inside 0x4, `L`. Total: every word is an instruction (R90). Ignored bits (R87) are not read. -/
def decode (w : Word) : Instr :=
  match w.getLsbD 15, w.getLsbD 14, w.getLsbD 13, w.getLsbD 12 with
  | false, false, false, false => .br (field11 w) (pcOffset9 w)
  | false, false, false, true =>
    if flagI w then .addi (field11 w) (field8 w) (imm5 w)
    else .add (field11 w) (field8 w) (field2 w)
  | false, false, true, false => .ld (field11 w) (pcOffset9 w)
  | false, false, true, true => .st (field11 w) (pcOffset9 w)
  | false, true, false, false => if flagL w then .jsr (pcOffset11 w) else .jsrr (field8 w)
  | false, true, false, true =>
    if flagI w then .andi (field11 w) (field8 w) (imm5 w)
    else .and (field11 w) (field8 w) (field2 w)
  | false, true, true, false => .ldr (field11 w) (field8 w) (offset6 w)
  | false, true, true, true => .str (field11 w) (field8 w) (offset6 w)
  | true, false, false, false => .rti
  | true, false, false, true => .not (field11 w) (field8 w)
  | true, false, true, false => .ldi (field11 w) (pcOffset9 w)
  | true, false, true, true => .sti (field11 w) (pcOffset9 w)
  | true, true, false, false => decodeJmp (field8 w)
  | true, true, false, true => .res
  | true, true, true, false => .lea (field11 w) (pcOffset9 w)
  | true, true, true, true => decodeTrap (trapvect8 w)

/-- Why words hold no instruction. -/
inductive DecodeError where
  /-- There is no word to decode. -/
  | noWord
  deriving DecidableEq, Repr

/-- Decode the first of a list of words, and give the rest back: one word is one instruction (R80). -/
def decodeWords : List Word → Except DecodeError (Instr × List Word)
  | [] => .error .noWord
  | w :: rest => .ok (decode w, rest)

/-- The decoder on an instruction numbered as spec/opcode_table.json numbers it: `w` holds `nbits` bits,
the bits above them are 0, and an instruction has 16 (R80). -/
def decodeTableWord (nbits w : Nat) : Option Instr :=
  if 16 < nbits then none
  else
    match decodeWords [BitVec.ofNat 16 (w % 2 ^ nbits)] with
    | .ok (i, _) => some i
    | .error _ => none

/-! ### The encoder -/

/-- A field in its place: its least significant bit is bit `lsb` of the word (R82). -/
def place {n : Nat} (v : BitVec n) (lsb : Nat) : Word := v.setWidth 16 <<< lsb

/-- The word of an instruction, by the layouts of R83. Ignored bits are 0, but NOT's, which are the
canonical 111111 (R92). -/
def encode : Instr → Word
  | .br nzp off => 0x0000#16 ||| place nzp 9 ||| place off 0
  | .add dr sr1 sr2 => 0x1000#16 ||| place dr 9 ||| place sr1 6 ||| place sr2 0
  | .addi dr sr1 imm => 0x1020#16 ||| place dr 9 ||| place sr1 6 ||| place imm 0
  | .ld dr off => 0x2000#16 ||| place dr 9 ||| place off 0
  | .st sr off => 0x3000#16 ||| place sr 9 ||| place off 0
  | .jsr off => 0x4800#16 ||| place off 0
  | .jsrr base => 0x4000#16 ||| place base 6
  | .and dr sr1 sr2 => 0x5000#16 ||| place dr 9 ||| place sr1 6 ||| place sr2 0
  | .andi dr sr1 imm => 0x5020#16 ||| place dr 9 ||| place sr1 6 ||| place imm 0
  | .ldr dr base off => 0x6000#16 ||| place dr 9 ||| place base 6 ||| place off 0
  | .str sr base off => 0x7000#16 ||| place sr 9 ||| place base 6 ||| place off 0
  | .rti => 0x8000#16
  | .not dr sr1 => 0x903F#16 ||| place dr 9 ||| place sr1 6
  | .ldi dr off => 0xA000#16 ||| place dr 9 ||| place off 0
  | .sti sr off => 0xB000#16 ||| place sr 9 ||| place off 0
  | .jmp base => 0xC000#16 ||| place base 6
  | .ret => 0xC1C0#16
  | .res => 0xD000#16
  | .lea dr off => 0xE000#16 ||| place dr 9 ||| place off 0
  | .trap v => 0xF000#16 ||| place v 0
  | .getc => 0xF020#16
  | .out => 0xF021#16
  | .puts => 0xF022#16
  | .inp => 0xF023#16
  | .putsp => 0xF024#16
  | .halt => 0xF025#16

/-! ### The opcode table -/

/-- A row of spec/opcode_table.json: the bits under `mask` select the row, `bits` is its match value, and
`ignored` marks the bits the CORE does not read (R87). -/
structure Row where
  mask : Word
  bits : Word
  ignored : Word
  deriving DecidableEq, Repr

/-- The row an instruction belongs to. -/
def Instr.row : Instr → Row
  | .br _ _ => ⟨0xF000#16, 0x0000#16, 0x0000#16⟩
  | .add _ _ _ => ⟨0xF020#16, 0x1000#16, 0x0018#16⟩
  | .addi _ _ _ => ⟨0xF020#16, 0x1020#16, 0x0000#16⟩
  | .ld _ _ => ⟨0xF000#16, 0x2000#16, 0x0000#16⟩
  | .st _ _ => ⟨0xF000#16, 0x3000#16, 0x0000#16⟩
  | .jsr _ => ⟨0xF800#16, 0x4800#16, 0x0000#16⟩
  | .jsrr _ => ⟨0xF800#16, 0x4000#16, 0x063F#16⟩
  | .and _ _ _ => ⟨0xF020#16, 0x5000#16, 0x0018#16⟩
  | .andi _ _ _ => ⟨0xF020#16, 0x5020#16, 0x0000#16⟩
  | .ldr _ _ _ => ⟨0xF000#16, 0x6000#16, 0x0000#16⟩
  | .str _ _ _ => ⟨0xF000#16, 0x7000#16, 0x0000#16⟩
  | .rti => ⟨0xF000#16, 0x8000#16, 0x0FFF#16⟩
  | .not _ _ => ⟨0xF000#16, 0x9000#16, 0x003F#16⟩
  | .ldi _ _ => ⟨0xF000#16, 0xA000#16, 0x0000#16⟩
  | .sti _ _ => ⟨0xF000#16, 0xB000#16, 0x0000#16⟩
  | .jmp _ => ⟨0xF000#16, 0xC000#16, 0x0E3F#16⟩
  | .ret => ⟨0xF1C0#16, 0xC1C0#16, 0x0E3F#16⟩
  | .res => ⟨0xF000#16, 0xD000#16, 0x0FFF#16⟩
  | .lea _ _ => ⟨0xF000#16, 0xE000#16, 0x0000#16⟩
  | .trap _ => ⟨0xF000#16, 0xF000#16, 0x0F00#16⟩
  | .getc => ⟨0xF0FF#16, 0xF020#16, 0x0F00#16⟩
  | .out => ⟨0xF0FF#16, 0xF021#16, 0x0F00#16⟩
  | .puts => ⟨0xF0FF#16, 0xF022#16, 0x0F00#16⟩
  | .inp => ⟨0xF0FF#16, 0xF023#16, 0x0F00#16⟩
  | .putsp => ⟨0xF0FF#16, 0xF024#16, 0x0F00#16⟩
  | .halt => ⟨0xF0FF#16, 0xF025#16, 0x0F00#16⟩

/-- The bits of the word that the CORE reads (R87). -/
def Instr.readMask (i : Instr) : Word := ~~~ i.row.ignored

end Sys2Proof
end

