-- ==== Sys2Proof/Machine/Loop.lean ====
section
/-! DEFINITION. The execution loop up to the dispatch (spec/70_reset_and_hazards.md R270-R272): the interrupt
signal at the instruction boundary, the fetch, and the continuation of an unfinished instruction. -/

namespace Sys2Proof.Machine

/-- What a step does: settle into a state, or run an instruction in a state. -/
inductive Action where
  /-- The step ends in this state. -/
  | settle (s : State)
  /-- The step runs this instruction in this state, whose PC is the incremented one. -/
  | run (i : Instr) (s : State)
  deriving DecidableEq, Repr

/-- The instruction word at PC, read through the port (R271). -/
def State.fetchWord (s : State) : Word := s.readWord s.pc

/-- The state after the fetch (R271, with the poll of R55 at KBSR_ADDR) and `PC <- PC + 1` (R23, R272). -/
def State.afterFetch (s : State) : State := (s.afterRead s.pc).setPc (s.pc + 1#16)

/-- Fetch and decode (R272). -/
def State.fetch (s : State) : Action := .run (decode s.fetchWord) s.afterFetch

/-- A step that begins at an instruction boundary: a delivered signal is taken before the fetch (R228,
R231, R272). -/
def State.atBoundary (s : State) : Action :=
  match s.signal with
  | some 0 => .settle s.takeSignal
  | some (n + 1) => (s.setSignal (some n)).fetch
  | none => s.fetch

/-- The action of a step (R272). No step leaves Halted (R30); one that is asked for there
answers the same state (log entry 11). An unfinished instruction goes on where it
stands (R31, log entries 7 and 9); no fetch happens before it completes. -/
def State.nextAction (s : State) : Action :=
  match s.status, s.activity with
  | .halted, _ => .settle s
  | .running, .idle => s.atBoundary
  | .running, .waitGetc => .settle (s.setActivity .idle).getcWait
  | .running, .waitIn => .settle (s.setActivity .idle).inWait
  | .running, .puts a => .settle (putsLoop stringWords a (s.setActivity .idle))
  | .running, .putsp a => .settle (putspLoop stringWords a (s.setActivity .idle))

/-- Place the instruction word `w` at PC and remove what keeps the next step from fetching it: a halted
status, an unfinished instruction, a signal due at this boundary. -/
def State.placeWord (s : State) (w : Word) : State :=
  { s with
    mem := s.mem.write s.pc w
    status := .running
    activity := .idle
    signal := if s.signal = some 0 then none else s.signal }

end Sys2Proof.Machine
end

