-- ==== Sys2Proof/Machine/Step.lean ====
section
/-! DEFINITION. One step of the machine (spec/70_reset_and_hazards.md R270, R272), and the placing of an
instruction where the next step fetches. -/

namespace Sys2Proof.Machine

/-- One step: an instruction runs completely (R270), or the action settles without one. -/
def step (s : State) : Host.Outcome State Fault Refusal :=
  match s.nextAction with
  | .settle t => .next t
  | .run i t => exec i t

/-- `s` with the instruction of `nbits` bits `w` (the bits above them 0) placed where `step` fetches next
(log entry 10). -/
def State.withFetchWord (s : State) (nbits w : Nat) : State :=
  s.placeWord (BitVec.ofNat 16 (w % 2 ^ nbits))

end Sys2Proof.Machine
end

