-- ==== Sys2Proof/Machine/Boot.lean ====
section
/-! DEFINITION. Boot (spec/70_reset_and_hazards.md R260-R265): the image loader's interface and the copy of
the image words into memory, before the first step. -/

namespace Sys2Proof.Machine

/-- Why no run begins (R221, R263, R264). -/
inductive LoadFailure where
  /-- A missing file, or a directory in its place (R263). -/
  | noFile
  /-- A file shorter than 2 bytes (R263). -/
  | tooShort
  /-- An odd length: a truncated image (R263, 92 D16). -/
  | oddLength
  /-- More words than fit between the origin and 0xFFFF (R264, 92 D16). -/
  | tooLong
  deriving DecidableEq, Repr

/-- The big-endian words of a byte list (R262), or none if its length is odd. -/
def bigEndianWords : List Byte → Option (List Word)
  | [] => some []
  | [_] => none
  | hi :: lo :: rest => (bigEndianWords rest).map fun ws => (hi ++ lo : Word) :: ws

/-- The loader's reading of an image file, `none` where there is no file (R262-R264): its origin and words. -/
def readImage : Option (List Byte) → Except LoadFailure (Word × List Word)
  | none => .error .noFile
  | some bytes =>
    if bytes.length < 2 then .error .tooShort
    else
      match bigEndianWords bytes with
      | none => .error .oddLength
      | some [] => .error .tooShort
      | some (origin :: words) =>
        if 0x10000 - origin.toNat < words.length then .error .tooLong else .ok (origin, words)

/-- Copy the words into memory from the origin (R253, R260): plain stores, no poll (R254). -/
def State.loadWords (s : State) (origin : Word) : List Word → State
  | [] => s
  | w :: rest => (s.writeWord origin w).loadWords (origin + 1#16) rest

/-- The state in which the first step is taken, with the image loaded (R260). The origin does not move the
start PC (R265). -/
def State.boot (c : Config) (file : Option (List Byte)) : Except LoadFailure State :=
  match readImage file with
  | .error e => .error e
  | .ok (origin, words) => .ok ((State.resetWith c).loadWords origin words)

end Sys2Proof.Machine
end

