-- ==== Sys2Proof/Safety.lean ====
section
/-! DEFINITION. The terms in which claims are stated: the invariant of the machine, what an instruction may
change, and the frames. -/

namespace Sys2Proof.Machine

/-! ### The invariant -/

/-- Exactly one of ZERO, NEGATIVE, POSITIVE (spec/10_state.md R27). -/
def condOneHot (c : Word) : Prop := c = condZero ∨ c = condNegative ∨ c = condPositive

/-- The legal values of COND (R24): one flag, or no flag where COND_RESET is no flag. -/
def State.condLegal (s : State) : Prop :=
  condOneHot s.cond ∨ (s.config.condReset = 0x0000#16 ∧ s.cond = 0x0000#16)

/-- What every state of a run meets: memory in canonical form, admitted parameters, a legal COND, and no
unfinished instruction once Halted (R30). -/
structure State.Inv (s : State) : Prop where
  mem : s.mem.wf = true
  config : s.config.wf = true
  cond : s.condLegal
  halted : s.status = .halted → s.activity = .idle

/-! ### What an instruction may change -/

/-- The instructions that write COND (R26). -/
def writesCond : Instr → Bool
  | .add _ _ _ | .addi _ _ _ | .and _ _ _ | .andi _ _ _ | .not _ _ | .ld _ _ | .ldr _ _ _ | .ldi _ _
  | .lea _ _ => true
  | .br _ _ | .st _ _ | .jsr _ | .jsrr _ | .str _ _ _ | .rti | .sti _ _ | .jmp _ | .ret | .res
  | .trap _ | .getc | .out | .puts | .inp | .putsp | .halt => false

/-- R7 where the parameter TRAP_LINKS_R7 is set (R180). -/
def linkRegs (c : Config) : List Reg := if c.trapLinksR7 then [7#3] else []

/-- The general registers an instruction writes (R21). -/
def writesRegs (c : Config) : Instr → List Reg
  | .add dr _ _ | .addi dr _ _ | .and dr _ _ | .andi dr _ _ | .not dr _ | .ld dr _ | .ldr dr _ _
  | .ldi dr _ | .lea dr _ => [dr]
  | .jsr _ | .jsrr _ => [7#3]
  | .getc | .inp => 0#3 :: linkRegs c
  | .trap _ | .out | .puts | .putsp | .halt => linkRegs c
  | .br _ _ | .st _ _ | .str _ _ _ | .rti | .sti _ _ | .jmp _ | .ret | .res => []

/-- The address an instruction stores to, and the register it stores (R131, R134, R140). -/
def storeOf (s : State) : Instr → Option (Word × Reg)
  | .st sr off => some (s.eaPc off, sr)
  | .str sr base off => some (s.eaBase base off, sr)
  | .sti sr off => some (s.readWord (s.eaPc off), sr)
  | .br _ _ | .add _ _ _ | .addi _ _ _ | .ld _ _ | .jsr _ | .jsrr _ | .and _ _ _ | .andi _ _ _
  | .ldr _ _ _ | .rti | .not _ _ | .ldi _ _ | .jmp _ | .ret | .res | .lea _ _ | .trap _ | .getc
  | .out | .puts | .inp | .putsp | .halt => none

/-- The instruction a step begins with, if it begins with one: the decoded fetch word of a running machine
with nothing unfinished and no signal due (R272). -/
def State.nextInstr (s : State) : Option Instr :=
  if s.status = .running ∧ s.activity = .idle ∧ s.signal ≠ some 0 then some (decode s.fetchWord)
  else none

/-! ### Frames -/

/-- COND `c` is the flag of the value `v` (R25). -/
def FlagsOf (v c : Word) : Prop :=
  (v = 0x0000#16 → c = condZero) ∧ (v.getLsbD 15 = true → c = condNegative) ∧
  (v ≠ 0x0000#16 → v.getLsbD 15 = false → c = condPositive)

/-- Every general register outside `rs` is unchanged. -/
def SameRegsBut (rs : List Reg) (s t : State) : Prop := ∀ r, r ∉ rs → t.reg r = s.reg r

/-- Every word of memory is unchanged. -/
def SameMem (s t : State) : Prop := ∀ a, t.mem.read a = s.mem.read a

/-- Every word of memory is unchanged but the one at `ea`, which holds `v`. -/
def StoredAt (ea v : Word) (s t : State) : Prop :=
  t.mem.read ea = v ∧ ∀ a, a ≠ ea → t.mem.read a = s.mem.read a

/-- Run status, unfinished instruction, console output and parameters are unchanged. -/
def SameRun (s t : State) : Prop :=
  t.status = s.status ∧ t.activity = s.activity ∧ t.output = s.output ∧ t.config = s.config

/-- No poll was made. -/
def SamePolls (s t : State) : Prop := t.polls = s.polls ∧ t.pollCount = s.pollCount

/-- No try of a blocking read was made. -/
def SameKeys (s t : State) : Prop := t.keys = s.keys ∧ t.keyCount = s.keyCount

/-- Nothing was asked of the host and no signal point passed. -/
def SameHost (s t : State) : Prop :=
  SamePolls s t ∧ SameKeys s t ∧ t.signal = s.signal

/-- The frame of an instruction that writes one register and COND. -/
def OperateFrame (dr : Reg) (s t : State) : Prop :=
  SameRegsBut [dr] s t ∧ t.pc = s.pc ∧ SameMem s t ∧ SameRun s t ∧ SameHost s t

/-- The frame of a load whose reads lead from `s` to the state `u`: the destination and COND change, and
what the reads changed. -/
def LoadFrame (dr : Reg) (s u t : State) : Prop :=
  SameRegsBut [dr] s t ∧ t.pc = s.pc ∧ SameMem u t ∧ SameRun s t ∧ SameHost u t

/-- The frame of a store: registers, COND and PC are unchanged. -/
def StoreFrame (s t : State) : Prop :=
  SameRegsBut [] s t ∧ t.cond = s.cond ∧ t.pc = s.pc ∧ SameRun s t

/-- The frame of a control transfer that writes the registers `rs`. -/
def JumpFrame (rs : List Reg) (s t : State) : Prop :=
  SameRegsBut rs s t ∧ t.cond = s.cond ∧ SameMem s t ∧ SameRun s t ∧ SameHost s t

/-- A TRAP's registers: those outside `rs` are unchanged, but R7 holds the return address where
TRAP_LINKS_R7 is set (R180, R182). -/
def TrapRegs (rs : List Reg) (s t : State) : Prop :=
  ∀ r, r ∉ rs → t.reg r = if s.config.trapLinksR7 = true ∧ r = 7#3 then s.pc else s.reg r

/-- A read at `a` answered by the poll `ans` leads from `s` to `t`, and `v` is the word read (R55). -/
def Polled (ans : Option Word) (v : Word) (s t : State) : Prop :=
  (∀ c, ans = some c → v = 0x8000#16 ∧ t.mem.read s.config.kbsrAddr = 0x8000#16 ∧
    t.mem.read s.config.kbdrAddr = c) ∧
  (ans = none → v = 0x0000#16 ∧ t.mem.read s.config.kbsrAddr = 0x0000#16 ∧
    t.mem.read s.config.kbdrAddr = s.mem.read s.config.kbdrAddr) ∧
  ∀ a, a ≠ s.config.kbsrAddr → a ≠ s.config.kbdrAddr → t.mem.read a = s.mem.read a

/-- The words `cs`, none of them zero, stand in `m` from `a` on, and none of their addresses is `k`. -/
def TextAt (m : Memory) (a k : Word) (cs : List Word) : Prop :=
  ∀ j (h : j < cs.length), a + BitVec.ofNat 16 j ≠ k ∧ cs[j] ≠ 0x0000#16 ∧
    m.read (a + BitVec.ofNat 16 j) = cs[j]

/-- The words `ws`, each with two nonzero bytes, stand in `m` from `a` on, and none of their addresses is
`k`. -/
def PackedAt (m : Memory) (a k : Word) (ws : List Word) : Prop :=
  ∀ j (h : j < ws.length), a + BitVec.ofNat 16 j ≠ k ∧ ws[j] &&& 0x00FF#16 ≠ 0x0000#16 ∧
    ws[j] >>> 8 ≠ 0x0000#16 ∧ m.read (a + BitVec.ofNat 16 j) = ws[j]

/-- PUTS or PUTSP, whose reads lead from `s` to `u`, has ended in `t` with the events `es`. -/
def StringEnds (es : List Event) (s u t : State) : Prop :=
  t.output = s.output ++ es ∧ TrapRegs [] s t ∧ t.cond = s.cond ∧ t.pc = s.pc ∧ SameMem u t ∧
  t.status = s.status ∧ t.activity = s.activity ∧ t.config = s.config ∧ SamePolls u t ∧
  SameKeys s t ∧ t.signal = s.signal

/-- The interrupt signal was taken inside a routine that began in `s` and had emitted `es`: `t` is Halted after the
halt message, with R0 as it was (R229, R230). -/
def CutShort (es : List Event) (s t : State) : Prop :=
  t.status = .halted ∧ t.signal = none ∧ t.reg 0#3 = s.reg 0#3 ∧ t.output = s.output ++ es ++ [.haltMsg]

/-- The bytes of a list of words in an image, high byte first (R262). -/
def imageBytes : List Word → List Byte
  | [] => []
  | w :: rest => highByte w :: lowByte w :: imageBytes rest

end Sys2Proof.Machine
end

