-- ==== Sys2Proof/Certificates/Slice0/Obligations.lean ====
section
/-! DEFINITION. The statements about the model, from the numbered rules of spec/. Every statement about all
states is also about every value of the parameters of spec/00_scope.md R8, which the state carries. In a
clause about the encoding, `x` (and `y`) stand in the bits the CORE does not read. -/

open Sys2Proof Sys2Proof.Machine

/-! ### Encoding -/

/-- Decoding the word of a well-formed instruction gives it back, for every value of every field. -/
def Obligations.DecodeOfEncodeIsIdentity : Prop :=
  ∀ i : Instr, i.wf = true → decode (encode i) = i

/-- Encoding what a word decodes to gives the word back in every bit the CORE reads. -/
def Obligations.EncodeOfDecodeKeepsReadBits : Prop :=
  ∀ w : Word, encode (decode w) &&& (decode w).readMask = w &&& (decode w).readMask

/-- Two words that agree in the bits the CORE reads decode to the same instruction (the spec's decision
92 D17). -/
def Obligations.IgnoredBitsNeverMatter : Prop :=
  ∀ w w' : Word, w &&& (decode w).readMask = w' &&& (decode w).readMask → decode w' = decode w

/-- Every word decodes to a well-formed instruction whose row of the opcode table it matches (the opcode
numbers are the spec's decision 92 D2). -/
def Obligations.EveryWordDecodesInItsRow : Prop :=
  ∀ w : Word, (decode w).wf = true ∧ w &&& (decode w).row.mask = (decode w).row.bits

/-- Words the spec writes out decode to the instructions it gives them. -/
def Obligations.SpecWordsDecode : Prop :=
  decode 0x1401#16 = .add 2#3 0#3 1#3 ∧ decode 0x127F#16 = .addi 1#3 1#3 0x1F#5 ∧
  decode 0x2002#16 = .ld 0#3 2#9 ∧ decode 0x795F#16 = .str 4#3 5#3 31#6 ∧
  decode 0x05FE#16 = .br 0b010#3 0x1FE#9 ∧ decode 0x4810#16 = .jsr 16#11 ∧
  decode 0xC1C0#16 = .ret ∧ decode 0xD123#16 = .res ∧ decode 0xF125#16 = .halt ∧
  decode 0xF026#16 = .trap 0x26#8

/-! ### The step -/

/-- A step of a running machine with nothing unfinished and no signal due runs the instruction its fetch
word decodes to, in the state after the fetch; away from KBSR_ADDR that word is the one stored at PC and
only PC (and the passed signal point) changes before the instruction. -/
def Obligations.StepRunsDecodedInstruction : Prop :=
  ∀ s : State, s.status = .running → s.activity = .idle → s.signal ≠ some 0 →
    let u := s.setSignal (s.signal.map (· - 1))
    step s = exec (decode (u.readWord u.pc)) ((u.afterRead u.pc).setPc (u.pc + 1#16)) ∧
    (s.pc ≠ s.config.kbsrAddr →
      step s = exec (decode (s.mem.read s.pc)) (u.setPc (s.pc + 1#16)))

/-- A step whose PC is KBSR_ADDR polls once and then does nothing but go on to the next word: the latched
word is RTI or a BR that never branches (the fetch's poll is the spec's decision 92 D6). -/
def Obligations.FetchAtKeyboardStatusPolls : Prop :=
  ∀ s : State, s.config.wf = true → s.status = .running → s.activity = .idle → s.signal = none →
    s.pc = s.config.kbsrAddr →
    ∃ t, step s = .next t ∧
      Polled s.pollAnswer (t.mem.read s.pc) s t ∧
      SameRegsBut [] s t ∧ t.cond = s.cond ∧ t.pc = s.pc + 1#16 ∧ SameRun s t ∧
      t.polls = s.pollTaken.polls ∧ SameKeys s t ∧ t.signal = none

/-! ### The memory port -/

/-- A read of KBSR polls and latches, takes one answer of the host, and touches nothing else; a read of any
other address returns the stored word and changes nothing. That the poll consumes its answer is the spec's
decision 92 D11. -/
def Obligations.ReadPortPollsAtStatusOnly : Prop :=
  (∀ s : State, s.config.wf = true →
    let u := s.afterRead s.config.kbsrAddr
    Polled s.pollAnswer (s.readWord s.config.kbsrAddr) s u ∧
    (∀ ans rest, s.polls = ans :: rest → s.pollAnswer = ans ∧ u.polls = rest) ∧
    SameRegsBut [] s u ∧ u.cond = s.cond ∧ u.pc = s.pc ∧ SameRun s u ∧ SameKeys s u ∧
    u.signal = s.signal) ∧
  ∀ (s : State) (a : Word), a ≠ s.config.kbsrAddr →
    s.readWord a = s.mem.read a ∧ s.afterRead a = s

/-- Memory in canonical form is equal data exactly when it reads the same everywhere (the model's own
representation, log entry 2). -/
def Obligations.CanonicalMemoryIsUnique : Prop :=
  ∀ m m' : Memory, m.wf = true → m'.wf = true → (∀ a : Word, m.read a = m'.read a) → m = m'

/-- Effective addresses and jump targets are the exact sums modulo 2^16. -/
def Obligations.AddressesWrapModulo65536 : Prop :=
  ∀ s : State,
    (∀ off : BitVec 9, ((s.eaPc off).toNat : Int) = ((s.pc.toNat : Int) + off.toInt) % 65536) ∧
    (∀ (base : Reg) (off : BitVec 6),
      ((s.eaBase base off).toNat : Int) = (((s.reg base).toNat : Int) + off.toInt) % 65536) ∧
    (∀ off : BitVec 11, ((s.pc + sext off).toNat : Int) = ((s.pc.toNat : Int) + off.toInt) % 65536)

/-! ### Operate instructions -/

/-- ADD, register form: completes with the sum modulo 2^16 of the two sources, read before the write. -/
def Obligations.AddRegisterResult : Prop :=
  ∀ (dr sr1 sr2 : Reg) (s : State),
    (∀ x : BitVec 2,
      decode (0x1000#16 ||| place dr 9 ||| place sr1 6 ||| place x 3 ||| place sr2 0)
        = .add dr sr1 sr2) ∧
    ∃ t, exec (.add dr sr1 sr2) s = .next t ∧
      (t.reg dr).toNat = ((s.reg sr1).toNat + (s.reg sr2).toNat) % 65536 ∧
      FlagsOf (t.reg dr) t.cond ∧ OperateFrame dr s t

/-- ADD, immediate form: completes with the source plus the signed 5-bit immediate, modulo 2^16. -/
def Obligations.AddImmediateResult : Prop :=
  ∀ (dr sr1 : Reg) (imm : BitVec 5) (s : State),
    decode (0x1020#16 ||| place dr 9 ||| place sr1 6 ||| place imm 0) = .addi dr sr1 imm ∧
    ∃ t, exec (.addi dr sr1 imm) s = .next t ∧
      ((t.reg dr).toNat : Int) = (((s.reg sr1).toNat : Int) + imm.toInt) % 65536 ∧
      FlagsOf (t.reg dr) t.cond ∧ OperateFrame dr s t

/-- AND, register form: completes with the bitwise AND of the sources. -/
def Obligations.AndRegisterResult : Prop :=
  ∀ (dr sr1 sr2 : Reg) (s : State),
    (∀ x : BitVec 2,
      decode (0x5000#16 ||| place dr 9 ||| place sr1 6 ||| place x 3 ||| place sr2 0)
        = .and dr sr1 sr2) ∧
    ∃ t, exec (.and dr sr1 sr2) s = .next t ∧
      (∀ k, (t.reg dr).getLsbD k = ((s.reg sr1).getLsbD k && (s.reg sr2).getLsbD k)) ∧
      FlagsOf (t.reg dr) t.cond ∧ OperateFrame dr s t

/-- AND, immediate form: the mask is the immediate with its sign bit in bits 15:5. -/
def Obligations.AndImmediateResult : Prop :=
  ∀ (dr sr1 : Reg) (imm : BitVec 5) (s : State),
    decode (0x5020#16 ||| place dr 9 ||| place sr1 6 ||| place imm 0) = .andi dr sr1 imm ∧
    ∃ t, exec (.andi dr sr1 imm) s = .next t ∧
      (∀ k, (t.reg dr).getLsbD k
        = ((s.reg sr1).getLsbD k && (if k < 5 then imm.getLsbD k else imm.getLsbD 4))) ∧
      FlagsOf (t.reg dr) t.cond ∧ OperateFrame dr s t

/-- NOT: completes with the 16-bit complement of the source. -/
def Obligations.NotResult : Prop :=
  ∀ (dr sr1 : Reg) (s : State),
    (∀ x : BitVec 6, decode (0x9000#16 ||| place dr 9 ||| place sr1 6 ||| place x 0) = .not dr sr1) ∧
    ∃ t, exec (.not dr sr1) s = .next t ∧
      (t.reg dr).toNat = 65535 - (s.reg sr1).toNat ∧
      FlagsOf (t.reg dr) t.cond ∧ OperateFrame dr s t

/-! ### Memory access -/

/-- LD: completes with the word read at PC + offset through the port. -/
def Obligations.LdResult : Prop :=
  ∀ (dr : Reg) (off : BitVec 9) (s : State),
    decode (0x2000#16 ||| place dr 9 ||| place off 0) = .ld dr off ∧
    ∃ t, exec (.ld dr off) s = .next t ∧
      t.reg dr = s.readWord (s.eaPc off) ∧ FlagsOf (t.reg dr) t.cond ∧
      LoadFrame dr s (s.afterRead (s.eaPc off)) t ∧
      (s.eaPc off ≠ s.config.kbsrAddr →
        t.reg dr = s.mem.read (s.eaPc off) ∧ SameMem s t ∧ SameHost s t) ∧
      (s.config.wf = true → s.eaPc off = s.config.kbsrAddr → Polled s.pollAnswer (t.reg dr) s t)

/-- LDR: completes with the word read at base + offset, the base read before the destination is written. -/
def Obligations.LdrResult : Prop :=
  ∀ (dr base : Reg) (off : BitVec 6) (s : State),
    decode (0x6000#16 ||| place dr 9 ||| place base 6 ||| place off 0) = .ldr dr base off ∧
    ∃ t, exec (.ldr dr base off) s = .next t ∧
      t.reg dr = s.readWord (s.eaBase base off) ∧ FlagsOf (t.reg dr) t.cond ∧
      LoadFrame dr s (s.afterRead (s.eaBase base off)) t ∧
      (s.eaBase base off ≠ s.config.kbsrAddr →
        t.reg dr = s.mem.read (s.eaBase base off) ∧ SameMem s t ∧ SameHost s t) ∧
      (s.config.wf = true → s.eaBase base off = s.config.kbsrAddr →
        Polled s.pollAnswer (t.reg dr) s t)

/-- LDI: completes with the data read at the pointer, the pointer read first; away from KBSR it is plain
double indirection. -/
def Obligations.LdiResult : Prop :=
  ∀ (dr : Reg) (off : BitVec 9) (s : State),
    decode (0xA000#16 ||| place dr 9 ||| place off 0) = .ldi dr off ∧
    ∃ t, exec (.ldi dr off) s = .next t ∧
      (let u := s.afterRead (s.eaPc off)
       let ea := s.readWord (s.eaPc off)
       t.reg dr = u.readWord ea ∧ FlagsOf (t.reg dr) t.cond ∧ LoadFrame dr s (u.afterRead ea) t) ∧
      (s.eaPc off ≠ s.config.kbsrAddr → s.mem.read (s.eaPc off) ≠ s.config.kbsrAddr →
        t.reg dr = s.mem.read (s.mem.read (s.eaPc off)) ∧ SameMem s t ∧ SameHost s t)

/-- LDI and STI through the keyboard status address (the spec's inferences R138 and R141): LDI with a
pointer that holds KBSR_ADDR polls once and loads the status; with its pointer cell at KBSR_ADDR it polls
once and loads the word at 0x8000 or 0x0000; STI with a pointer that holds KBSR_ADDR stores there without a
poll; with its pointer cell at KBSR_ADDR it polls and stores to 0x8000 or 0x0000. -/
def Obligations.IndirectionThroughKeyboardStatus : Prop :=
  ∀ (r : Reg) (off : BitVec 9) (s : State), s.config.wf = true →
    let pa := s.eaPc off
    let u := s.afterRead pa
    let ptr : Word := if s.pollAnswer.isSome then 0x8000#16 else 0x0000#16
    (pa ≠ s.config.kbsrAddr → s.mem.read pa = s.config.kbsrAddr →
      (∃ t, exec (.ldi r off) s = .next t ∧ Polled s.pollAnswer (t.reg r) s t ∧
        t.polls = s.pollTaken.polls) ∧
      (∃ t, exec (.sti r off) s = .next t ∧ StoredAt s.config.kbsrAddr (s.reg r) s t ∧
        SameHost s t)) ∧
    (pa = s.config.kbsrAddr → s.config.kbsrAddr ≠ 0x8000#16 → s.config.kbsrAddr ≠ 0x0000#16 →
      (∃ t, exec (.ldi r off) s = .next t ∧ t.reg r = u.mem.read ptr ∧ SameMem u t ∧
        t.polls = s.pollTaken.polls) ∧
      (∃ t, exec (.sti r off) s = .next t ∧ StoredAt ptr (s.reg r) u t ∧
        t.polls = s.pollTaken.polls))

/-- LEA: completes with the address itself, flags from it, no memory access and no poll. -/
def Obligations.LeaResult : Prop :=
  ∀ (dr : Reg) (off : BitVec 9) (s : State),
    decode (0xE000#16 ||| place dr 9 ||| place off 0) = .lea dr off ∧
    ∃ t, exec (.lea dr off) s = .next t ∧
      ((t.reg dr).toNat : Int) = ((s.pc.toNat : Int) + off.toInt) % 65536 ∧
      FlagsOf (t.reg dr) t.cond ∧ OperateFrame dr s t

/-- ST: completes with the register stored at PC + offset, at KBSR and KBDR too, with no poll. -/
def Obligations.StResult : Prop :=
  ∀ (sr : Reg) (off : BitVec 9) (s : State),
    decode (0x3000#16 ||| place sr 9 ||| place off 0) = .st sr off ∧
    ∃ t, exec (.st sr off) s = .next t ∧
      StoredAt (s.eaPc off) (s.reg sr) s t ∧ StoreFrame s t ∧ SameHost s t

/-- STR: completes with the register stored at base + offset, at KBSR and KBDR too, with no poll. -/
def Obligations.StrResult : Prop :=
  ∀ (sr base : Reg) (off : BitVec 6) (s : State),
    decode (0x7000#16 ||| place sr 9 ||| place base 6 ||| place off 0) = .str sr base off ∧
    ∃ t, exec (.str sr base off) s = .next t ∧
      StoredAt (s.eaBase base off) (s.reg sr) s t ∧ StoreFrame s t ∧ SameHost s t

/-- STI: completes with the register stored at the pointer read at PC + offset; away from KBSR that is the
word stored there. -/
def Obligations.StiResult : Prop :=
  ∀ (sr : Reg) (off : BitVec 9) (s : State),
    decode (0xB000#16 ||| place sr 9 ||| place off 0) = .sti sr off ∧
    ∃ t, exec (.sti sr off) s = .next t ∧
      StoredAt (s.readWord (s.eaPc off)) (s.reg sr) (s.afterRead (s.eaPc off)) t ∧
      StoreFrame s t ∧ SameHost (s.afterRead (s.eaPc off)) t ∧
      (s.eaPc off ≠ s.config.kbsrAddr →
        StoredAt (s.mem.read (s.eaPc off)) (s.reg sr) s t ∧ SameHost s t)

/-! ### Control transfer -/

/-- BR: completes, at PC + offset if the condition bits meet COND, at PC if not. -/
def Obligations.BrResult : Prop :=
  ∀ (nzp : BitVec 3) (off : BitVec 9) (s : State),
    decode (0x0000#16 ||| place nzp 9 ||| place off 0) = .br nzp off ∧
    ∃ t, exec (.br nzp off) s = .next t ∧
      (nzp.setWidth 16 &&& s.cond ≠ 0#16 →
        (t.pc.toNat : Int) = ((s.pc.toNat : Int) + off.toInt) % 65536) ∧
      (nzp.setWidth 16 &&& s.cond = 0#16 → t.pc = s.pc) ∧ JumpFrame [] s t

/-- Which condition bit tests which flag (the spec's decision 92 D3), that no bits never branch, and that all
bits branch whenever a flag is set. -/
def Obligations.BrTestsEachFlag : Prop :=
  ∀ (n z p : Bool) (off : BitVec 9) (s t : State),
    exec (.br (BitVec.ofBool n ++ BitVec.ofBool z ++ BitVec.ofBool p) off) s = .next t →
    (s.cond = condNegative → t.pc = if n then s.eaPc off else s.pc) ∧
    (s.cond = condZero → t.pc = if z then s.eaPc off else s.pc) ∧
    (s.cond = condPositive → t.pc = if p then s.eaPc off else s.pc) ∧
    (n = false → z = false → p = false → t = s)

/-- JSR: completes with R7 the incremented PC and PC that value plus the offset. -/
def Obligations.JsrResult : Prop :=
  ∀ (off : BitVec 11) (s : State),
    decode (0x4800#16 ||| place off 0) = .jsr off ∧
    ∃ t, exec (.jsr off) s = .next t ∧ t.reg 7#3 = s.pc ∧
      (t.pc.toNat : Int) = ((s.pc.toNat : Int) + off.toInt) % 65536 ∧ JumpFrame [7#3] s t

/-- JSRR: completes with R7 the incremented PC and PC the base, read after R7 is written. -/
def Obligations.JsrrResult : Prop :=
  ∀ (base : Reg) (s : State),
    (∀ (x : BitVec 2) (y : BitVec 6),
      decode (0x4000#16 ||| place x 9 ||| place base 6 ||| place y 0) = .jsrr base) ∧
    ∃ t, exec (.jsrr base) s = .next t ∧ t.reg 7#3 = s.pc ∧ t.pc = t.reg base ∧
      (base ≠ 7#3 → t.pc = s.reg base) ∧ JumpFrame [7#3] s t

/-- JSRR R7 does not jump: the base is the R7 just written (the spec's decision 92 D18). -/
def Obligations.JsrrThroughR7DoesNotJump : Prop :=
  ∀ s : State, decode 0x41C0#16 = .jsrr 7#3 ∧
    ∃ t, exec (.jsrr 7#3) s = .next t ∧ t.pc = s.pc ∧ t.reg 7#3 = s.pc ∧ JumpFrame [7#3] s t

/-- JMP and RET: complete with PC the base register, R7 for RET, whose words are those of JMP with base R7. -/
def Obligations.JmpAndRetResult : Prop :=
  ∀ (base : Reg) (s : State),
    (∀ (x : BitVec 3) (y : BitVec 6),
      decode (0xC000#16 ||| place x 9 ||| place base 6 ||| place y 0)
        = if base = 7#3 then .ret else .jmp base) ∧
    (∃ t, exec (.jmp base) s = .next t ∧ t.pc = s.reg base ∧ JumpFrame [] s t) ∧
    ∃ t, exec .ret s = .next t ∧ t.pc = s.reg 7#3 ∧ JumpFrame [] s t

/-! ### Reserved opcodes -/

/-- RTI and RES complete with no effect, and a step that fetches any word of their opcodes changes nothing
but PC. -/
def Obligations.ReservedOpcodesAreNoOps : Prop :=
  (∀ x : BitVec 12, decode (0x8000#16 ||| place x 0) = .rti ∧ decode (0xD000#16 ||| place x 0) = .res) ∧
  (∀ s : State, exec .rti s = .next s ∧ exec .res s = .next s) ∧
  ∀ (s : State) (x : BitVec 12), s.status = .running → s.activity = .idle → s.signal = none →
    s.pc ≠ s.config.kbsrAddr →
    (s.mem.read s.pc = 0x8000#16 ||| place x 0 ∨ s.mem.read s.pc = 0xD000#16 ||| place x 0) →
    step s = .next (s.setPc (s.pc + 1#16))

/-! ### TRAP -/

/-- GETC with a key at hand and no signal due: R0 is the key, no output; COND changes only under
TRAP_IN_SETS_FLAGS (92 D9), R7 only under TRAP_LINKS_R7 (R180, 92 D8; log entry 16). How the keys are held is log
entry 7; that one point for a later signal passes is log entry 8. -/
def Obligations.GetcResult : Prop :=
  ∀ (s : State) (c : Word), s.keyAnswer = some c → s.signal ≠ some 0 →
    (∀ x : BitVec 4, decode (0xF020#16 ||| place x 8) = .getc) ∧
    ∃ t, exec .getc s = .next t ∧ t.reg 0#3 = c ∧ TrapRegs [0#3] s t ∧
      (s.config.trapInSetsFlags = true → FlagsOf c t.cond) ∧
      (s.config.trapInSetsFlags = false → t.cond = s.cond) ∧
      t.pc = s.pc ∧ SameMem s t ∧ SameRun s t ∧ SameKeys s.keyTaken t ∧ SamePolls s t ∧
      t.signal = s.signal.map (· - 1)

/-- OUT with no signal due: one event with all of R0. R7 changes only under TRAP_LINKS_R7 (R180, 92 D8; log
entry 16); that one point for a later signal passes is log entry 8. -/
def Obligations.OutResult : Prop :=
  ∀ s : State, s.signal ≠ some 0 →
    (∀ x : BitVec 4, decode (0xF021#16 ||| place x 8) = .out) ∧
    ∃ t, exec .out s = .next t ∧ t.output = s.output ++ [.out (s.reg 0#3)] ∧ TrapRegs [] s t ∧
      t.cond = s.cond ∧ t.pc = s.pc ∧ SameMem s t ∧ t.status = s.status ∧ t.activity = s.activity ∧
      t.config = s.config ∧ SameKeys s t ∧ SamePolls s t ∧ t.signal = s.signal.map (· - 1)

/-- PUTS over a string `cs` of nonzero words that a zero word ends, away from KBSR_ADDR and with no signal:
one event for each word, and nothing more. R7 changes only under TRAP_LINKS_R7 (R180, 92 D8; log entry 16). -/
def Obligations.PutsPrintsString : Prop :=
  ∀ (s : State) (cs : List Word), s.signal = none → cs.length < stringWords →
    (∀ k, k ≤ cs.length → s.reg 0#3 + BitVec.ofNat 16 k ≠ s.config.kbsrAddr) →
    (∀ k (h : k < cs.length), cs[k] ≠ 0#16 ∧
      s.mem.read (s.reg 0#3 + BitVec.ofNat 16 k) = cs[k]) →
    s.mem.read (s.reg 0#3 + BitVec.ofNat 16 cs.length) = 0#16 →
    (∀ x : BitVec 4, decode (0xF022#16 ||| place x 8) = .puts) ∧
    ∃ t, exec .puts s = .next t ∧ t.output = s.output ++ cs.map .out ∧ TrapRegs [] s t ∧
      t.cond = s.cond ∧ t.pc = s.pc ∧ SameMem s t ∧ t.status = s.status ∧ t.activity = s.activity ∧
      t.config = s.config ∧ SameHost s t

/-- PUTS and PUTSP that reach KBSR_ADDR, at their first word or after the words before it, poll there once (the
spec's decision 92 D7). PUTSP ends there, since the low byte of 0x8000 and of 0x0000 is 0. PUTS ends there with
no key; with a key it emits 0x8000 and goes on at KBSR_ADDR + 1, in the memory the poll left. In each case the
routine has ended; R7 changes only under TRAP_LINKS_R7 (R180, 92 D8; log entry 16). -/
def Obligations.StringsAtKeyboardStatusPoll : Prop :=
  ∀ s : State, s.config.wf = true → s.signal = none →
    let k := s.config.kbsrAddr
    let u := s.afterRead k
    (∀ ws : List Word, ws.length < stringWords → PackedAt s.mem (s.reg 0#3) k ws →
      s.reg 0#3 + BitVec.ofNat 16 ws.length = k →
      ∃ t, exec .putsp s = .next t ∧
        StringEnds (ws.flatMap (fun v => [.out (v &&& 0x00FF#16), .out (v >>> 8)])) s u t ∧
        Polled s.pollAnswer (t.mem.read k) s t) ∧
    (∀ cs : List Word, cs.length < stringWords → TextAt s.mem (s.reg 0#3) k cs →
      s.reg 0#3 + BitVec.ofNat 16 cs.length = k →
      (s.pollAnswer = none →
        ∃ t, exec .puts s = .next t ∧ StringEnds (cs.map .out) s u t ∧
          Polled s.pollAnswer (t.mem.read k) s t) ∧
      (∀ (c : Word) (ds : List Word), s.pollAnswer = some c →
        cs.length + 1 + ds.length < stringWords → TextAt u.mem (k + 1#16) k ds →
        u.mem.read (k + 1#16 + BitVec.ofNat 16 ds.length) = 0#16 →
        ∃ t, exec .puts s = .next t ∧
          StringEnds (cs.map .out ++ .out 0x8000#16 :: ds.map .out) s u t ∧
          Polled s.pollAnswer (t.mem.read k) s t))

/-- IN with a key at hand and no signal: prompt, echo, R0; COND changes only under TRAP_IN_SETS_FLAGS (92 D9), R7
only under TRAP_LINKS_R7 (R180, 92 D8; log entry 16). How the keys are held is log entry 7. -/
def Obligations.InResult : Prop :=
  ∀ (s : State) (c : Word), s.keyAnswer = some c → s.signal = none →
    (∀ x : BitVec 4, decode (0xF023#16 ||| place x 8) = .inp) ∧
    ∃ t, exec .inp s = .next t ∧ t.output = s.output ++ [.prompt, .out c] ∧ t.reg 0#3 = c ∧
      TrapRegs [0#3] s t ∧
      (s.config.trapInSetsFlags = true → FlagsOf c t.cond) ∧
      (s.config.trapInSetsFlags = false → t.cond = s.cond) ∧
      t.pc = s.pc ∧ SameMem s t ∧ t.status = s.status ∧ t.activity = s.activity ∧
      t.config = s.config ∧ SameKeys s.keyTaken t ∧ SamePolls s t ∧ t.signal = none

/-- PUTSP over full words `ws` (both bytes nonzero) and a last word `w` with a zero byte, away from KBSR_ADDR
and with no signal: low byte then high byte of each full word, then the low byte of the last word unless it
is zero. R7 changes only under TRAP_LINKS_R7 (R180, 92 D8; log entry 16). -/
def Obligations.PutspPrintsPackedString : Prop :=
  ∀ (s : State) (ws : List Word) (w : Word), s.signal = none → ws.length < stringWords →
    (∀ k, k ≤ ws.length → s.reg 0#3 + BitVec.ofNat 16 k ≠ s.config.kbsrAddr) →
    (∀ k (h : k < ws.length), ws[k] &&& 0x00FF#16 ≠ 0#16 ∧ ws[k] >>> 8 ≠ 0#16 ∧
      s.mem.read (s.reg 0#3 + BitVec.ofNat 16 k) = ws[k]) →
    s.mem.read (s.reg 0#3 + BitVec.ofNat 16 ws.length) = w →
    (w &&& 0x00FF#16 = 0#16 ∨ w >>> 8 = 0#16) →
    (∀ x : BitVec 4, decode (0xF024#16 ||| place x 8) = .putsp) ∧
    ∃ t, exec .putsp s = .next t ∧
      t.output = s.output ++ ws.flatMap (fun v => [.out (v &&& 0x00FF#16), .out (v >>> 8)]) ++
        (if w &&& 0x00FF#16 = 0#16 then [] else [.out (w &&& 0x00FF#16)]) ∧
      TrapRegs [] s t ∧ t.cond = s.cond ∧ t.pc = s.pc ∧ SameMem s t ∧ t.status = s.status ∧
      t.activity = s.activity ∧ t.config = s.config ∧ SameHost s t

/-- HALT: the halt message, then Halted with exit code 0; PC, COND, memory and the registers as they were, but
that R7 holds the return address where TRAP_LINKS_R7 is set (R180, 92 D8; log entry 16). -/
def Obligations.HaltResult : Prop :=
  ∀ s : State,
    (∀ x : BitVec 4, decode (0xF025#16 ||| place x 8) = .halt) ∧
    ∃ t, exec .halt s = .next t ∧ t.output = s.output ++ [.haltMsg] ∧ t.status = .halted ∧
      t.status.exitCode = some 0 ∧ TrapRegs [] s t ∧ t.cond = s.cond ∧ t.pc = s.pc ∧ SameMem s t ∧
      t.activity = s.activity ∧ t.config = s.config ∧ SameHost s t

/-- TRAP with a vector that names no routine: nothing changes but R7 where TRAP_LINKS_R7 is set (R180, 92 D8;
log entry 16). -/
def Obligations.UnknownTrapIsNoOp : Prop :=
  ∀ (v : BitVec 8) (s : State), (v < 0x20#8 ∨ 0x25#8 < v) →
    (∀ x : BitVec 4, decode (0xF000#16 ||| place x 8 ||| place v 0) = .trap v) ∧
    ∃ t, exec (.trap v) s = .next t ∧ TrapRegs [] s t ∧ t.cond = s.cond ∧ t.pc = s.pc ∧
      SameMem s t ∧ SameRun s t ∧ SameHost s t

/-- What no trap routine does, whatever the host and the signal do: write a general register other than R0
(GETC, IN) and the link, write COND without the parameter, change PC, or write memory outside KBSR and KBDR
(the two parameters are the spec's decisions 92 D8 and D9; log entry 16). -/
def Obligations.TrapRoutinesKeepTheRest : Prop :=
  ∀ (i : Instr) (s t : State),
    (i = .getc ∨ i = .out ∨ i = .puts ∨ i = .inp ∨ i = .putsp ∨ i = .halt ∨ ∃ v, i = .trap v) →
    exec i s = .next t →
    TrapRegs [0#3] s t ∧
    ((i = .out ∨ i = .puts ∨ i = .putsp ∨ i = .halt) → t.reg 0#3 = s.reg 0#3) ∧
    (s.config.trapInSetsFlags = false → t.cond = s.cond) ∧ t.pc = s.pc ∧
    ∀ a, a ≠ s.config.kbsrAddr → a ≠ s.config.kbdrAddr → t.mem.read a = s.mem.read a

/-! ### Waiting, the interrupt signal, Halted -/

/-- While the host delivers no key GETC and IN wait: the instruction is unfinished, R0 is not written, and IN
has emitted its prompt (the model's form of the wait, log entry 7); R7 changes only under TRAP_LINKS_R7 (R180,
92 D8; log entry 16). -/
def Obligations.NoKeyBeginsWait : Prop :=
  ∀ s : State, s.keyAnswer = none → s.signal = none →
    (∃ t, exec .getc s = .next t ∧ t.activity = .waitGetc ∧ t.status = s.status ∧
      TrapRegs [] s t ∧ t.cond = s.cond ∧ t.pc = s.pc ∧ t.output = s.output ∧ SameMem s t ∧
      t.config = s.config ∧ SameKeys s.keyTaken t ∧ SamePolls s t ∧ t.signal = none) ∧
    (∃ t, exec .inp s = .next t ∧ t.activity = .waitIn ∧ t.status = s.status ∧
      TrapRegs [] s t ∧ t.cond = s.cond ∧ t.pc = s.pc ∧ t.output = s.output ++ [.prompt] ∧
      SameMem s t ∧ t.config = s.config ∧ SameKeys s.keyTaken t ∧ SamePolls s t ∧ t.signal = none)

/-- A waiting machine stays as it is, but for the try it made, until the host delivers a key, and then completes
GETC or IN without fetching: R0 is the key, COND changes only under TRAP_IN_SETS_FLAGS (R185, R193, 92 D9; log
entry 16). The model's form of the wait is log entry 7. -/
def Obligations.KeyEndsWait : Prop :=
  ∀ s : State, s.status = .running → s.signal = none →
    (s.activity = .waitGetc ∨ s.activity = .waitIn) →
    (s.keyAnswer = none → step s = .next s.keyTaken) ∧
    (∀ c, s.keyAnswer = some c →
      ∃ t, step s = .next t ∧ t.activity = .idle ∧ t.status = .running ∧ t.reg 0#3 = c ∧
        SameRegsBut [0#3] s t ∧
        (s.config.trapInSetsFlags = true → FlagsOf c t.cond) ∧
        (s.config.trapInSetsFlags = false → t.cond = s.cond) ∧
        t.pc = s.pc ∧ SameMem s t ∧ t.config = s.config ∧ SameKeys s.keyTaken t ∧ SamePolls s t ∧
        t.signal = none ∧
        (s.activity = .waitGetc → t.output = s.output) ∧
        (s.activity = .waitIn → t.output = s.output ++ [.out c]))

/-- A signal due during a wait ends the run: no key is taken, R0 is not written, no echo; the HALT sequence
follows and PC is the TRAP's address plus 1, as it stood. So it is in the steps after the one that began the wait
(the activity says that the instruction waits, log entry 7), and at the first try, in the step of GETC or IN
itself (where the signal stands before it is taken is log entry 8; R7 holds the return address under
TRAP_LINKS_R7, R180, log entry 16). -/
def Obligations.SignalEndsWait : Prop :=
  (∀ s : State, s.status = .running → s.signal = some 0 →
    (s.activity = .waitGetc ∨ s.activity = .waitIn) →
    ∃ t, step s = .next t ∧ t.status = .halted ∧ t.activity = .idle ∧
      t.output = s.output ++ [.haltMsg] ∧ SameRegsBut [] s t ∧ t.cond = s.cond ∧ t.pc = s.pc ∧
      SameMem s t ∧ SamePolls s t ∧ SameKeys s t) ∧
  (∀ s : State, s.signal = some 0 →
    ∃ t, exec .getc s = .next t ∧ t.status = .halted ∧ t.activity = s.activity ∧
      t.output = s.output ++ [.haltMsg] ∧ TrapRegs [] s t ∧ t.cond = s.cond ∧ t.pc = s.pc ∧
      SameMem s t ∧ SamePolls s t ∧ SameKeys s t) ∧
  (∀ s : State, s.signal = some 1 →
    ∃ t, exec .inp s = .next t ∧ t.status = .halted ∧ t.activity = s.activity ∧
      t.output = s.output ++ [.prompt, .haltMsg] ∧ TrapRegs [] s t ∧ t.cond = s.cond ∧
      t.pc = s.pc ∧ SameMem s t ∧ SamePolls s t ∧ SameKeys s t)

/-- A signal due at an instruction boundary is taken before the fetch: the HALT sequence, and nothing else
changes (how a signal is scheduled is log entry 8). -/
def Obligations.SignalAtBoundaryHalts : Prop :=
  ∀ s : State, s.status = .running → s.activity = .idle → s.signal = some 0 →
    ∃ t, step s = .next t ∧ t.status = .halted ∧ t.status.exitCode = some 0 ∧
      t.output = s.output ++ [.haltMsg] ∧ t.activity = .idle ∧ SameRegsBut [] s t ∧
      t.cond = s.cond ∧ t.pc = s.pc ∧ t.mem = s.mem ∧ SamePolls s t ∧ SameKeys s t

/-- What the interrupt signal does to OUT, PUTS, PUTSP, IN and GETC, where `u` is the state the routine leaves
when there is no signal (R229, R230). Wherever the signal is scheduled, it is either still to come and the
routine is as with none, or it was taken: the run is Halted, R0 is not written, and the output is some first
events of the routine, then the halt message. A signal due at once cuts all events. Every proper prefix of the
events is left by some moment of the signal, and of IN all of them too, with R0 still unwritten; and some moment of
it leaves the whole routine with the signal due next. Where it may land is the spec's decision 92 D14; how it is
scheduled is log entry 8. -/
def Obligations.SignalCutsOutputShort : Prop :=
  ∀ (i : Instr) (s u : State),
    (i = .out ∨ i = .puts ∨ i = .putsp ∨ i = .inp ∨ i = .getc) →
    exec i (s.setSignal none) = .next u →
    (∀ t, exec i s = .next t →
      (t = u.setSignal t.signal ∧ (t.signal = none ↔ s.signal = none)) ∨
      ∃ es, (s.output ++ es) <+: u.output ∧ CutShort es s t) ∧
    (s.signal = some 0 → ∃ t, exec i s = .next t ∧ CutShort [] s t) ∧
    (∀ es, (s.output ++ es) <+: u.output → (s.output ++ es ≠ u.output ∨ i = .inp) →
      ∃ n t, exec i (s.setSignal (some n)) = .next t ∧ CutShort es s t) ∧
    (∃ n, exec i (s.setSignal (some n)) = .next (u.setSignal (some 0)))

/-- No step leaves Halted, and none changes anything there (that one answers a state there: log entry 11). -/
def Obligations.HaltedIsTerminal : Prop :=
  ∀ s : State, s.status = .halted → step s = .next s

/-- Spreading a long PUTS or PUTSP over several steps is invisible (the model's choice, log entry 9): a step of a
machine that is in the middle of a string goes on with the string at the address where it stopped and does nothing
else, and going on from where a first part stopped gives what reading on at once gives. -/
def Obligations.LongStringsSplitInvisibly : Prop :=
  (∀ (s : State) (a : Word), s.status = .running → s.activity = .puts a →
    step s = .next (putsLoop stringWords a (s.setActivity .idle))) ∧
  (∀ (s : State) (a : Word), s.status = .running → s.activity = .putsp a →
    step s = .next (putspLoop stringWords a (s.setActivity .idle))) ∧
  ∀ (m n : Nat) (a b : Word) (s : State), s.activity = .idle →
    ((putsLoop m a s).activity = .puts b →
      putsLoop (m + n) a s = putsLoop n b ((putsLoop m a s).setActivity .idle)) ∧
    ((putspLoop m a s).activity = .putsp b →
      putspLoop (m + n) a s = putspLoop n b ((putspLoop m a s).setActivity .idle))

/-! ### The whole machine -/

/-- Every step of every state answers a next state: no fault, no refusal, whatever memory holds. That a step answers a
state in a wait (log entry 7), in a string that has no end, where the spec has one step that never completes
(R190, R196, R246; log entry 9), and in Halted (log entry 11) is the model's choice. -/
def Obligations.EveryStepCompletes : Prop :=
  ∀ s : State, ∃ t, step s = .next t

/-- Every step keeps the invariant. -/
def Obligations.StepKeepsInvariant : Prop :=
  ∀ s t : State, s.Inv → step s = .next t → t.Inv

/-- The state after reset meets the invariant, for every admitted choice of the parameters. -/
def Obligations.ResetMeetsInvariant : Prop :=
  ∀ c : Config, c.wf = true → (State.resetWith c).Inv

/-- After reset, for every choice of the parameters: PC 0x3000, every word of memory zero, Running, nothing
emitted, nothing unfinished. -/
def Obligations.ResetState : Prop :=
  ∀ c : Config,
    (State.resetWith c).pc = 0x3000#16 ∧ (∀ a : Word, (State.resetWith c).mem.read a = 0#16) ∧
    (State.resetWith c).status = .running ∧ (State.resetWith c).output = [] ∧
    (State.resetWith c).activity = .idle

/-- After reset the registers hold GPR_RESET and COND holds COND_RESET, by default 0x0000 and ZERO (the spec's
decisions 92 D4 and D5; log entries 4 and 5). -/
def Obligations.ResetRegisters : Prop :=
  (∀ (c : Config) (r : Reg), (State.resetWith c).reg r = c.gprReset) ∧
  (∀ c : Config, (State.resetWith c).cond = c.condReset) ∧
  (∀ r : Reg, State.reset.reg r = 0x0000#16) ∧ State.reset.cond = condZero

/-- A step changes COND only by one of ADD, AND, NOT, LD, LDR, LDI, LEA (unless TRAP_IN_SETS_FLAGS is set),
and then to exactly one flag (GETC and IN leaving COND is the spec's decision 92 D9). -/
def Obligations.OnlyFlagWritersChangeCond : Prop :=
  ∀ s t : State, step s = .next t → s.config.trapInSetsFlags = false → t.cond ≠ s.cond →
    condOneHot t.cond ∧ ∃ i, s.nextInstr = some i ∧ writesCond i = true

/-- A step changes a general register only as the writer R21 names, or as the end of a wait of GETC or IN
writes R0 (R7 by TRAP only under TRAP_LINKS_R7, the spec's decision 92 D8). -/
def Obligations.OnlyNamedWritersChangeRegisters : Prop :=
  ∀ (s t : State) (r : Reg), step s = .next t → t.reg r ≠ s.reg r →
    (∃ i, s.nextInstr = some i ∧ r ∈ writesRegs s.config i) ∨
    (s.status = .running ∧ (s.activity = .waitGetc ∨ s.activity = .waitIn) ∧ r = 0#3)

/-- A step changes a word of memory only if it is the word that ST, STR or STI stores to, which then holds the
stored register, or a keyboard register, and then the step polled (it took an answer of the host, which is
the spec's decision 92 D11 in the form of log entry 6). -/
def Obligations.OnlyStoresAndPollsChangeMemory : Prop :=
  ∀ (s t : State) (a : Word), step s = .next t → t.mem.read a ≠ s.mem.read a →
    (∃ i sr, s.nextInstr = some i ∧ storeOf s.afterFetch i = some (a, sr) ∧
      t.mem.read a = s.reg sr) ∨
    ((a = s.config.kbsrAddr ∨ a = s.config.kbdrAddr) ∧ ¬ SamePolls s t)

/-- A step enters Halted only by HALT or by taking the interrupt signal, which is then no longer to come, and its
last event is then the halt message (how a signal is scheduled is log entry 8). -/
def Obligations.OnlyHaltOrSignalEndsRun : Prop :=
  ∀ s t : State, step s = .next t → s.status = .running → t.status = .halted →
    ((s.signal ≠ none ∧ t.signal = none) ∨ s.nextInstr = some .halt) ∧ ∃ es, t.output = s.output ++ es ++ [.haltMsg]

/-- A step only appends to the output stream and never changes the parameters. -/
def Obligations.StepOnlyAppendsOutput : Prop :=
  ∀ s t : State, step s = .next t → s.output <+: t.output ∧ t.config = s.config

/-- A store to the address of the next instruction is what the next step fetches. -/
def Obligations.StoreIsSeenByNextFetch : Prop :=
  ∀ (i : Instr) (s t : State) (sr : Reg), exec i s = .next t → storeOf s i = some (s.pc, sr) →
    s.pc ≠ s.config.kbsrAddr → t.fetchWord = s.reg sr

/-- The host's keys reach the machine through GETC and IN alone: any other instruction does the same
whatever keys are to come. -/
def Obligations.KeysReachOnlyGetcAndIn : Prop :=
  ∀ (i : Instr) (s t : State) (ks : List (Option Word)) (n : Nat), i.wf = true → i ≠ .getc → i ≠ .inp →
    exec i s = .next t → exec i (s.setKeys ks n) = .next (t.setKeys ks n)

/-! ### Boot -/

/-- A loaded image: its words stand in memory from the origin on, every other word is zero, and PC is
0x3000 whatever the origin. -/
def Obligations.BootCopiesImage : Prop :=
  ∀ (c : Config) (bytes : List Byte) (origin : Word) (words : List Word),
    readImage (some bytes) = .ok (origin, words) →
    ∃ s, State.boot c (some bytes) = .ok s ∧
      (∀ k (h : k < words.length), s.mem.read (origin + BitVec.ofNat 16 k) = words[k]) ∧
      (∀ a : Word, (∀ k, k < words.length → a ≠ origin + BitVec.ofNat 16 k) → s.mem.read a = 0#16) ∧
      s.pc = 0x3000#16 ∧ s.status = .running ∧ s.output = []

/-- Reading an image: the big-endian bytes of an origin and of words that fit give them back; a missing
file, fewer than two bytes, an odd length, or too many words is a load failure (odd and too long are the
spec's decision 92 D16). -/
def Obligations.ImageReading : Prop :=
  (∀ (origin : Word) (words : List Word), words.length ≤ 0x10000 - origin.toNat →
    readImage (some (imageBytes (origin :: words))) = .ok (origin, words)) ∧
  (∀ (origin : Word) (words : List Word), 0x10000 - origin.toNat < words.length →
    readImage (some (imageBytes (origin :: words))) = .error .tooLong) ∧
  (∀ bytes : List Byte, bytes.length < 2 → readImage (some bytes) = .error .tooShort) ∧
  (∀ bytes : List Byte, 2 ≤ bytes.length → bytes.length % 2 = 1 →
    readImage (some bytes) = .error .oddLength) ∧
  readImage none = .error .noFile
end

