-- ==== Sys2Proof/Laws/Decode.lean ====
section
/-! SUPPORT. The fields of a word and their places, bit by bit (spec/30_encoding.md R82): the lemmas with
which encodings are compared without unfolding `place` or a field. -/

namespace Sys2Proof

@[simp] theorem getLsbD_place {n : Nat} (v : BitVec n) (k j : Nat) :
    (place v k).getLsbD j = (decide (j < 16) && decide (k ≤ j) && v.getLsbD (j - k)) := by
  unfold place
  rw [BitVec.getLsbD_shiftLeft, BitVec.getLsbD_setWidth]
  by_cases hj : j < 16
  · by_cases hk : k ≤ j
    · simp [hj, hk, show ¬ j < k by omega, show j - k < 16 by omega]
    · simp [hk, show j < k by omega]
  · simp [hj]

@[simp] theorem getElem_place {n : Nat} (v : BitVec n) (k j : Nat) (h : j < 16) :
    (place v k)[j] = (decide (k ≤ j) && v.getLsbD (j - k)) := by
  rw [← BitVec.getLsbD_eq_getElem, getLsbD_place]
  simp [h]

@[simp] theorem getLsbD_field11 (w : Word) (j : Nat) :
    (field11 w).getLsbD j = (decide (j < 3) && w.getLsbD (9 + j)) := by
  simp [field11]

@[simp] theorem getLsbD_field8 (w : Word) (j : Nat) :
    (field8 w).getLsbD j = (decide (j < 3) && w.getLsbD (6 + j)) := by
  simp [field8]

@[simp] theorem getLsbD_field2 (w : Word) (j : Nat) :
    (field2 w).getLsbD j = (decide (j < 3) && w.getLsbD j) := by
  simp [field2]

@[simp] theorem getLsbD_imm5 (w : Word) (j : Nat) :
    (imm5 w).getLsbD j = (decide (j < 5) && w.getLsbD j) := by
  simp [imm5]

@[simp] theorem getLsbD_offset6 (w : Word) (j : Nat) :
    (offset6 w).getLsbD j = (decide (j < 6) && w.getLsbD j) := by
  simp [offset6]

@[simp] theorem getLsbD_pcOffset9 (w : Word) (j : Nat) :
    (pcOffset9 w).getLsbD j = (decide (j < 9) && w.getLsbD j) := by
  simp [pcOffset9]

@[simp] theorem getLsbD_pcOffset11 (w : Word) (j : Nat) :
    (pcOffset11 w).getLsbD j = (decide (j < 11) && w.getLsbD j) := by
  simp [pcOffset11]

@[simp] theorem getLsbD_trapvect8 (w : Word) (j : Nat) :
    (trapvect8 w).getLsbD j = (decide (j < 8) && w.getLsbD j) := by
  simp [trapvect8]

@[simp] theorem getElem_field11 (w : Word) (j : Nat) (h : j < 3) :
    (field11 w)[j] = w.getLsbD (9 + j) := by
  rw [← BitVec.getLsbD_eq_getElem, getLsbD_field11]
  simp [h]

@[simp] theorem getElem_field8 (w : Word) (j : Nat) (h : j < 3) :
    (field8 w)[j] = w.getLsbD (6 + j) := by
  rw [← BitVec.getLsbD_eq_getElem, getLsbD_field8]
  simp [h]

@[simp] theorem getElem_field2 (w : Word) (j : Nat) (h : j < 3) :
    (field2 w)[j] = w.getLsbD (j) := by
  rw [← BitVec.getLsbD_eq_getElem, getLsbD_field2]
  simp [h]

@[simp] theorem getElem_imm5 (w : Word) (j : Nat) (h : j < 5) :
    (imm5 w)[j] = w.getLsbD (j) := by
  rw [← BitVec.getLsbD_eq_getElem, getLsbD_imm5]
  simp [h]

@[simp] theorem getElem_offset6 (w : Word) (j : Nat) (h : j < 6) :
    (offset6 w)[j] = w.getLsbD (j) := by
  rw [← BitVec.getLsbD_eq_getElem, getLsbD_offset6]
  simp [h]

@[simp] theorem getElem_pcOffset9 (w : Word) (j : Nat) (h : j < 9) :
    (pcOffset9 w)[j] = w.getLsbD (j) := by
  rw [← BitVec.getLsbD_eq_getElem, getLsbD_pcOffset9]
  simp [h]

@[simp] theorem getElem_pcOffset11 (w : Word) (j : Nat) (h : j < 11) :
    (pcOffset11 w)[j] = w.getLsbD (j) := by
  rw [← BitVec.getLsbD_eq_getElem, getLsbD_pcOffset11]
  simp [h]

@[simp] theorem getElem_trapvect8 (w : Word) (j : Nat) (h : j < 8) :
    (trapvect8 w)[j] = w.getLsbD (j) := by
  rw [← BitVec.getLsbD_eq_getElem, getLsbD_trapvect8]
  simp [h]

/-- The words of a routine's vector are that routine, the others TRAP with their vector (R181). -/
theorem decodeTrap_cases (v : BitVec 8) :
    (v = 0x20#8 ∧ decodeTrap v = .getc) ∨ (v = 0x21#8 ∧ decodeTrap v = .out) ∨
    (v = 0x22#8 ∧ decodeTrap v = .puts) ∨ (v = 0x23#8 ∧ decodeTrap v = .inp) ∨
    (v = 0x24#8 ∧ decodeTrap v = .putsp) ∨ (v = 0x25#8 ∧ decodeTrap v = .halt) ∨
    (isRoutineVector v = false ∧ decodeTrap v = .trap v) := by
  unfold decodeTrap isRoutineVector
  repeat' split
  all_goals simp_all

end Sys2Proof
end

