-- ==== Sys2Proof/Laws/Memory.lean ====
section
/-! SUPPORT. Memory: a read after a write, and that every operation keeps the canonical form. -/

namespace Sys2Proof.Machine

theorem Memory.read_insert (m : Memory) (a b : Word) (v : Word) :
    Memory.read (m.insert a.toNat v) b = if b = a then v else m.read b := by
  have eqv : (a.toNat = b.toNat) = (b = a) :=
    propext ⟨fun h => (BitVec.eq_of_toNat_eq h).symm, fun h => by rw [h]⟩
  induction m with
  | nil => simp only [Memory.insert, Memory.read, eqv]
  | cons c rest ih =>
    obtain ⟨j, w⟩ := c
    simp only [Memory.insert]
    split
    · rename_i hj
      simp only [Memory.read, ih]
      by_cases hb : b = a
      · subst hb; simp [show ¬ j = b.toNat by omega]
      · simp [hb]
    · split
      · rename_i hj
        subst hj
        simp only [Memory.read, eqv]
        split <;> simp_all
      · simp only [Memory.read, eqv]

theorem Memory.read_erase (m : Memory) (a b : Word) :
    Memory.read (m.erase a.toNat) b = if b = a then 0x0000#16 else m.read b := by
  have eqv : (a.toNat = b.toNat) = (b = a) :=
    propext ⟨fun h => (BitVec.eq_of_toNat_eq h).symm, fun h => by rw [h]⟩
  induction m with
  | nil => simp [Memory.erase, Memory.read]
  | cons c rest ih =>
    obtain ⟨j, w⟩ := c
    simp only [Memory.erase] at ih ⊢
    by_cases hj : j = a.toNat
    · subst hj
      simp only [List.filter, bne_self_eq_false, ih, Memory.read, eqv]
      split <;> rfl
    · have : (j != a.toNat) = true := by simpa using hj
      simp only [List.filter, this, Memory.read, ih]
      by_cases hb : b = a
      · subst hb; simp [hj]
      · simp [hb]

/-- A read after a write gives the value written there, and every other word as before (R57, R64). -/
theorem Memory.read_write (m : Memory) (a b v : Word) :
    (m.write a v).read b = if b = a then v else m.read b := by
  unfold Memory.write
  split
  · rename_i h; rw [Memory.read_erase, h]
  · exact Memory.read_insert m a b v

@[simp] theorem Memory.read_write_self (m : Memory) (a v : Word) : (m.write a v).read a = v := by
  simp [Memory.read_write]

theorem Memory.read_write_ne (m : Memory) {a b : Word} (v : Word) (h : b ≠ a) :
    (m.write a v).read b = m.read b := by
  simp [Memory.read_write, h]

theorem Memory.risesFrom_mono {m : Memory} {lo lo' : Nat} (h : lo' ≤ lo)
    (hm : Memory.risesFrom lo m = true) : Memory.risesFrom lo' m = true := by
  cases m with
  | nil => rfl
  | cons c rest =>
    obtain ⟨k, v⟩ := c
    simp only [Memory.risesFrom, Bool.and_eq_true, decide_eq_true_eq, bne_iff_ne] at hm ⊢
    exact ⟨⟨⟨by omega, hm.1.1.2⟩, hm.1.2⟩, hm.2⟩

theorem Memory.risesFrom_erase {m : Memory} {lo : Nat} (k : Nat)
    (hm : Memory.risesFrom lo m = true) : Memory.risesFrom lo (m.erase k) = true := by
  induction m generalizing lo with
  | nil => rfl
  | cons c rest ih =>
    obtain ⟨j, w⟩ := c
    simp only [Memory.risesFrom, Bool.and_eq_true, decide_eq_true_eq, bne_iff_ne] at hm
    have hr := ih hm.2
    by_cases hj : j = k
    · subst hj
      simpa [Memory.erase] using Memory.risesFrom_mono (by omega) hr
    · simp only [Memory.erase, List.filter, show (j != k) = true by simpa using hj]
      simp only [Memory.risesFrom, Bool.and_eq_true, decide_eq_true_eq, bne_iff_ne]
      exact ⟨hm.1, hr⟩

theorem Memory.risesFrom_insert {m : Memory} {lo k : Nat} {v : Word} (hlo : lo ≤ k) (hk : k < 65536)
    (hv : v ≠ 0x0000#16) (hm : Memory.risesFrom lo m = true) :
    Memory.risesFrom lo (m.insert k v) = true := by
  induction m generalizing lo with
  | nil => simp [Memory.insert, Memory.risesFrom, hlo, hk, hv]
  | cons c rest ih =>
    obtain ⟨j, w⟩ := c
    simp only [Memory.risesFrom, Bool.and_eq_true, decide_eq_true_eq, bne_iff_ne] at hm
    simp only [Memory.insert]
    split
    · rename_i hj
      simp only [Memory.risesFrom, Bool.and_eq_true, decide_eq_true_eq, bne_iff_ne]
      exact ⟨hm.1, ih (by omega) hm.2⟩
    · split
      · rename_i hj
        subst hj
        simp only [Memory.risesFrom, Bool.and_eq_true, decide_eq_true_eq, bne_iff_ne]
        exact ⟨⟨⟨hlo, hk⟩, hv⟩, hm.2⟩
      · simp only [Memory.risesFrom, Bool.and_eq_true, decide_eq_true_eq, bne_iff_ne]
        exact ⟨⟨⟨hlo, hk⟩, hv⟩, ⟨⟨by omega, hm.1.1.2⟩, hm.1.2⟩, hm.2⟩

/-- Every write keeps the canonical form. -/
theorem Memory.wf_write {m : Memory} (hm : m.wf = true) (a v : Word) : (m.write a v).wf = true := by
  unfold Memory.write Memory.wf at *
  split
  · exact Memory.risesFrom_erase _ hm
  · exact Memory.risesFrom_insert (Nat.zero_le _) a.isLt ‹_› hm

theorem State.reset_mem_wf (c : Config) : (State.resetWith c).mem.wf = true := rfl

end Sys2Proof.Machine
end

