-- ==== Sys2Proof/Laws/State.lean ====
section
/-! SUPPORT. One lemma per field per update of the state, so that no proof unfolds a record update; then
the same for the operations that branch (a poll, a read, the entry of a TRAP, the store of a key). -/

namespace Sys2Proof.Machine

/-! ### setReg -/

@[simp] theorem State.setReg_regs (s : State) (i : Reg) (v : Word) : (s.setReg i v).regs = s.regs.set i.toNat v i.isLt := rfl
@[simp] theorem State.setReg_pc (s : State) (i : Reg) (v : Word) : (s.setReg i v).pc = s.pc := rfl
@[simp] theorem State.setReg_cond (s : State) (i : Reg) (v : Word) : (s.setReg i v).cond = s.cond := rfl
@[simp] theorem State.setReg_mem (s : State) (i : Reg) (v : Word) : (s.setReg i v).mem = s.mem := rfl
@[simp] theorem State.setReg_status (s : State) (i : Reg) (v : Word) : (s.setReg i v).status = s.status := rfl
@[simp] theorem State.setReg_activity (s : State) (i : Reg) (v : Word) : (s.setReg i v).activity = s.activity := rfl
@[simp] theorem State.setReg_output (s : State) (i : Reg) (v : Word) : (s.setReg i v).output = s.output := rfl
@[simp] theorem State.setReg_config (s : State) (i : Reg) (v : Word) : (s.setReg i v).config = s.config := rfl
@[simp] theorem State.setReg_polls (s : State) (i : Reg) (v : Word) : (s.setReg i v).polls = s.polls := rfl
@[simp] theorem State.setReg_pollCount (s : State) (i : Reg) (v : Word) : (s.setReg i v).pollCount = s.pollCount := rfl
@[simp] theorem State.setReg_keys (s : State) (i : Reg) (v : Word) : (s.setReg i v).keys = s.keys := rfl
@[simp] theorem State.setReg_keyCount (s : State) (i : Reg) (v : Word) : (s.setReg i v).keyCount = s.keyCount := rfl
@[simp] theorem State.setReg_signal (s : State) (i : Reg) (v : Word) : (s.setReg i v).signal = s.signal := rfl

/-! ### setPc -/

@[simp] theorem State.setPc_regs (s : State) (v : Word) : (s.setPc v).regs = s.regs := rfl
@[simp] theorem State.setPc_pc (s : State) (v : Word) : (s.setPc v).pc = v := rfl
@[simp] theorem State.setPc_cond (s : State) (v : Word) : (s.setPc v).cond = s.cond := rfl
@[simp] theorem State.setPc_mem (s : State) (v : Word) : (s.setPc v).mem = s.mem := rfl
@[simp] theorem State.setPc_status (s : State) (v : Word) : (s.setPc v).status = s.status := rfl
@[simp] theorem State.setPc_activity (s : State) (v : Word) : (s.setPc v).activity = s.activity := rfl
@[simp] theorem State.setPc_output (s : State) (v : Word) : (s.setPc v).output = s.output := rfl
@[simp] theorem State.setPc_config (s : State) (v : Word) : (s.setPc v).config = s.config := rfl
@[simp] theorem State.setPc_polls (s : State) (v : Word) : (s.setPc v).polls = s.polls := rfl
@[simp] theorem State.setPc_pollCount (s : State) (v : Word) : (s.setPc v).pollCount = s.pollCount := rfl
@[simp] theorem State.setPc_keys (s : State) (v : Word) : (s.setPc v).keys = s.keys := rfl
@[simp] theorem State.setPc_keyCount (s : State) (v : Word) : (s.setPc v).keyCount = s.keyCount := rfl
@[simp] theorem State.setPc_signal (s : State) (v : Word) : (s.setPc v).signal = s.signal := rfl

/-! ### setcc -/

@[simp] theorem State.setcc_regs (s : State) (v : Word) : (s.setcc v).regs = s.regs := rfl
@[simp] theorem State.setcc_pc (s : State) (v : Word) : (s.setcc v).pc = s.pc := rfl
@[simp] theorem State.setcc_cond (s : State) (v : Word) : (s.setcc v).cond = condOf v := rfl
@[simp] theorem State.setcc_mem (s : State) (v : Word) : (s.setcc v).mem = s.mem := rfl
@[simp] theorem State.setcc_status (s : State) (v : Word) : (s.setcc v).status = s.status := rfl
@[simp] theorem State.setcc_activity (s : State) (v : Word) : (s.setcc v).activity = s.activity := rfl
@[simp] theorem State.setcc_output (s : State) (v : Word) : (s.setcc v).output = s.output := rfl
@[simp] theorem State.setcc_config (s : State) (v : Word) : (s.setcc v).config = s.config := rfl
@[simp] theorem State.setcc_polls (s : State) (v : Word) : (s.setcc v).polls = s.polls := rfl
@[simp] theorem State.setcc_pollCount (s : State) (v : Word) : (s.setcc v).pollCount = s.pollCount := rfl
@[simp] theorem State.setcc_keys (s : State) (v : Word) : (s.setcc v).keys = s.keys := rfl
@[simp] theorem State.setcc_keyCount (s : State) (v : Word) : (s.setcc v).keyCount = s.keyCount := rfl
@[simp] theorem State.setcc_signal (s : State) (v : Word) : (s.setcc v).signal = s.signal := rfl

/-! ### setRegCc -/

@[simp] theorem State.setRegCc_regs (s : State) (i : Reg) (v : Word) : (s.setRegCc i v).regs = s.regs.set i.toNat v i.isLt := rfl
@[simp] theorem State.setRegCc_pc (s : State) (i : Reg) (v : Word) : (s.setRegCc i v).pc = s.pc := rfl
@[simp] theorem State.setRegCc_cond (s : State) (i : Reg) (v : Word) : (s.setRegCc i v).cond = condOf v := rfl
@[simp] theorem State.setRegCc_mem (s : State) (i : Reg) (v : Word) : (s.setRegCc i v).mem = s.mem := rfl
@[simp] theorem State.setRegCc_status (s : State) (i : Reg) (v : Word) : (s.setRegCc i v).status = s.status := rfl
@[simp] theorem State.setRegCc_activity (s : State) (i : Reg) (v : Word) : (s.setRegCc i v).activity = s.activity := rfl
@[simp] theorem State.setRegCc_output (s : State) (i : Reg) (v : Word) : (s.setRegCc i v).output = s.output := rfl
@[simp] theorem State.setRegCc_config (s : State) (i : Reg) (v : Word) : (s.setRegCc i v).config = s.config := rfl
@[simp] theorem State.setRegCc_polls (s : State) (i : Reg) (v : Word) : (s.setRegCc i v).polls = s.polls := rfl
@[simp] theorem State.setRegCc_pollCount (s : State) (i : Reg) (v : Word) : (s.setRegCc i v).pollCount = s.pollCount := rfl
@[simp] theorem State.setRegCc_keys (s : State) (i : Reg) (v : Word) : (s.setRegCc i v).keys = s.keys := rfl
@[simp] theorem State.setRegCc_keyCount (s : State) (i : Reg) (v : Word) : (s.setRegCc i v).keyCount = s.keyCount := rfl
@[simp] theorem State.setRegCc_signal (s : State) (i : Reg) (v : Word) : (s.setRegCc i v).signal = s.signal := rfl

/-! ### writeWord -/

@[simp] theorem State.writeWord_regs (s : State) (a v : Word) : (s.writeWord a v).regs = s.regs := rfl
@[simp] theorem State.writeWord_pc (s : State) (a v : Word) : (s.writeWord a v).pc = s.pc := rfl
@[simp] theorem State.writeWord_cond (s : State) (a v : Word) : (s.writeWord a v).cond = s.cond := rfl
@[simp] theorem State.writeWord_mem (s : State) (a v : Word) : (s.writeWord a v).mem = s.mem.write a v := rfl
@[simp] theorem State.writeWord_status (s : State) (a v : Word) : (s.writeWord a v).status = s.status := rfl
@[simp] theorem State.writeWord_activity (s : State) (a v : Word) : (s.writeWord a v).activity = s.activity := rfl
@[simp] theorem State.writeWord_output (s : State) (a v : Word) : (s.writeWord a v).output = s.output := rfl
@[simp] theorem State.writeWord_config (s : State) (a v : Word) : (s.writeWord a v).config = s.config := rfl
@[simp] theorem State.writeWord_polls (s : State) (a v : Word) : (s.writeWord a v).polls = s.polls := rfl
@[simp] theorem State.writeWord_pollCount (s : State) (a v : Word) : (s.writeWord a v).pollCount = s.pollCount := rfl
@[simp] theorem State.writeWord_keys (s : State) (a v : Word) : (s.writeWord a v).keys = s.keys := rfl
@[simp] theorem State.writeWord_keyCount (s : State) (a v : Word) : (s.writeWord a v).keyCount = s.keyCount := rfl
@[simp] theorem State.writeWord_signal (s : State) (a v : Word) : (s.writeWord a v).signal = s.signal := rfl

/-! ### emit -/

@[simp] theorem State.emit_regs (s : State) (e : Event) : (s.emit e).regs = s.regs := rfl
@[simp] theorem State.emit_pc (s : State) (e : Event) : (s.emit e).pc = s.pc := rfl
@[simp] theorem State.emit_cond (s : State) (e : Event) : (s.emit e).cond = s.cond := rfl
@[simp] theorem State.emit_mem (s : State) (e : Event) : (s.emit e).mem = s.mem := rfl
@[simp] theorem State.emit_status (s : State) (e : Event) : (s.emit e).status = s.status := rfl
@[simp] theorem State.emit_activity (s : State) (e : Event) : (s.emit e).activity = s.activity := rfl
@[simp] theorem State.emit_output (s : State) (e : Event) : (s.emit e).output = s.output ++ [e] := rfl
@[simp] theorem State.emit_config (s : State) (e : Event) : (s.emit e).config = s.config := rfl
@[simp] theorem State.emit_polls (s : State) (e : Event) : (s.emit e).polls = s.polls := rfl
@[simp] theorem State.emit_pollCount (s : State) (e : Event) : (s.emit e).pollCount = s.pollCount := rfl
@[simp] theorem State.emit_keys (s : State) (e : Event) : (s.emit e).keys = s.keys := rfl
@[simp] theorem State.emit_keyCount (s : State) (e : Event) : (s.emit e).keyCount = s.keyCount := rfl
@[simp] theorem State.emit_signal (s : State) (e : Event) : (s.emit e).signal = s.signal := rfl

/-! ### terminate -/

@[simp] theorem State.terminate_regs (s : State) : s.terminate.regs = s.regs := rfl
@[simp] theorem State.terminate_pc (s : State) : s.terminate.pc = s.pc := rfl
@[simp] theorem State.terminate_cond (s : State) : s.terminate.cond = s.cond := rfl
@[simp] theorem State.terminate_mem (s : State) : s.terminate.mem = s.mem := rfl
@[simp] theorem State.terminate_status (s : State) : s.terminate.status = .halted := rfl
@[simp] theorem State.terminate_activity (s : State) : s.terminate.activity = s.activity := rfl
@[simp] theorem State.terminate_output (s : State) : s.terminate.output = s.output ++ [.haltMsg] := rfl
@[simp] theorem State.terminate_config (s : State) : s.terminate.config = s.config := rfl
@[simp] theorem State.terminate_polls (s : State) : s.terminate.polls = s.polls := rfl
@[simp] theorem State.terminate_pollCount (s : State) : s.terminate.pollCount = s.pollCount := rfl
@[simp] theorem State.terminate_keys (s : State) : s.terminate.keys = s.keys := rfl
@[simp] theorem State.terminate_keyCount (s : State) : s.terminate.keyCount = s.keyCount := rfl
@[simp] theorem State.terminate_signal (s : State) : s.terminate.signal = s.signal := rfl

/-! ### takeSignal -/

@[simp] theorem State.takeSignal_regs (s : State) : s.takeSignal.regs = s.regs := rfl
@[simp] theorem State.takeSignal_pc (s : State) : s.takeSignal.pc = s.pc := rfl
@[simp] theorem State.takeSignal_cond (s : State) : s.takeSignal.cond = s.cond := rfl
@[simp] theorem State.takeSignal_mem (s : State) : s.takeSignal.mem = s.mem := rfl
@[simp] theorem State.takeSignal_status (s : State) : s.takeSignal.status = .halted := rfl
@[simp] theorem State.takeSignal_activity (s : State) : s.takeSignal.activity = s.activity := rfl
@[simp] theorem State.takeSignal_output (s : State) : s.takeSignal.output = s.output ++ [.haltMsg] := rfl
@[simp] theorem State.takeSignal_config (s : State) : s.takeSignal.config = s.config := rfl
@[simp] theorem State.takeSignal_polls (s : State) : s.takeSignal.polls = s.polls := rfl
@[simp] theorem State.takeSignal_pollCount (s : State) : s.takeSignal.pollCount = s.pollCount := rfl
@[simp] theorem State.takeSignal_keys (s : State) : s.takeSignal.keys = s.keys := rfl
@[simp] theorem State.takeSignal_keyCount (s : State) : s.takeSignal.keyCount = s.keyCount := rfl
@[simp] theorem State.takeSignal_signal (s : State) : s.takeSignal.signal = none := rfl

/-! ### setActivity -/

@[simp] theorem State.setActivity_regs (s : State) (a : Activity) : (s.setActivity a).regs = s.regs := rfl
@[simp] theorem State.setActivity_pc (s : State) (a : Activity) : (s.setActivity a).pc = s.pc := rfl
@[simp] theorem State.setActivity_cond (s : State) (a : Activity) : (s.setActivity a).cond = s.cond := rfl
@[simp] theorem State.setActivity_mem (s : State) (a : Activity) : (s.setActivity a).mem = s.mem := rfl
@[simp] theorem State.setActivity_status (s : State) (a : Activity) : (s.setActivity a).status = s.status := rfl
@[simp] theorem State.setActivity_activity (s : State) (a : Activity) : (s.setActivity a).activity = a := rfl
@[simp] theorem State.setActivity_output (s : State) (a : Activity) : (s.setActivity a).output = s.output := rfl
@[simp] theorem State.setActivity_config (s : State) (a : Activity) : (s.setActivity a).config = s.config := rfl
@[simp] theorem State.setActivity_polls (s : State) (a : Activity) : (s.setActivity a).polls = s.polls := rfl
@[simp] theorem State.setActivity_pollCount (s : State) (a : Activity) : (s.setActivity a).pollCount = s.pollCount := rfl
@[simp] theorem State.setActivity_keys (s : State) (a : Activity) : (s.setActivity a).keys = s.keys := rfl
@[simp] theorem State.setActivity_keyCount (s : State) (a : Activity) : (s.setActivity a).keyCount = s.keyCount := rfl
@[simp] theorem State.setActivity_signal (s : State) (a : Activity) : (s.setActivity a).signal = s.signal := rfl
@[simp] theorem State.setActivity_self (s : State) : s.setActivity s.activity = s := rfl

/-! ### setKeys -/

@[simp] theorem State.setKeys_regs (s : State) (ks : List (Option Word)) (n : Nat) : (s.setKeys ks n).regs = s.regs := rfl
@[simp] theorem State.setKeys_pc (s : State) (ks : List (Option Word)) (n : Nat) : (s.setKeys ks n).pc = s.pc := rfl
@[simp] theorem State.setKeys_cond (s : State) (ks : List (Option Word)) (n : Nat) : (s.setKeys ks n).cond = s.cond := rfl
@[simp] theorem State.setKeys_mem (s : State) (ks : List (Option Word)) (n : Nat) : (s.setKeys ks n).mem = s.mem := rfl
@[simp] theorem State.setKeys_status (s : State) (ks : List (Option Word)) (n : Nat) : (s.setKeys ks n).status = s.status := rfl
@[simp] theorem State.setKeys_activity (s : State) (ks : List (Option Word)) (n : Nat) : (s.setKeys ks n).activity = s.activity := rfl
@[simp] theorem State.setKeys_output (s : State) (ks : List (Option Word)) (n : Nat) : (s.setKeys ks n).output = s.output := rfl
@[simp] theorem State.setKeys_config (s : State) (ks : List (Option Word)) (n : Nat) : (s.setKeys ks n).config = s.config := rfl
@[simp] theorem State.setKeys_polls (s : State) (ks : List (Option Word)) (n : Nat) : (s.setKeys ks n).polls = s.polls := rfl
@[simp] theorem State.setKeys_pollCount (s : State) (ks : List (Option Word)) (n : Nat) : (s.setKeys ks n).pollCount = s.pollCount := rfl
@[simp] theorem State.setKeys_keys (s : State) (ks : List (Option Word)) (n : Nat) : (s.setKeys ks n).keys = ks := rfl
@[simp] theorem State.setKeys_keyCount (s : State) (ks : List (Option Word)) (n : Nat) : (s.setKeys ks n).keyCount = n := rfl
@[simp] theorem State.setKeys_signal (s : State) (ks : List (Option Word)) (n : Nat) : (s.setKeys ks n).signal = s.signal := rfl
@[simp] theorem State.setKeys_self (s : State) : s.setKeys s.keys s.keyCount = s := rfl

/-! ### setSignal -/

@[simp] theorem State.setSignal_regs (s : State) (g : Option Nat) : (s.setSignal g).regs = s.regs := rfl
@[simp] theorem State.setSignal_pc (s : State) (g : Option Nat) : (s.setSignal g).pc = s.pc := rfl
@[simp] theorem State.setSignal_cond (s : State) (g : Option Nat) : (s.setSignal g).cond = s.cond := rfl
@[simp] theorem State.setSignal_mem (s : State) (g : Option Nat) : (s.setSignal g).mem = s.mem := rfl
@[simp] theorem State.setSignal_status (s : State) (g : Option Nat) : (s.setSignal g).status = s.status := rfl
@[simp] theorem State.setSignal_activity (s : State) (g : Option Nat) : (s.setSignal g).activity = s.activity := rfl
@[simp] theorem State.setSignal_output (s : State) (g : Option Nat) : (s.setSignal g).output = s.output := rfl
@[simp] theorem State.setSignal_config (s : State) (g : Option Nat) : (s.setSignal g).config = s.config := rfl
@[simp] theorem State.setSignal_polls (s : State) (g : Option Nat) : (s.setSignal g).polls = s.polls := rfl
@[simp] theorem State.setSignal_pollCount (s : State) (g : Option Nat) : (s.setSignal g).pollCount = s.pollCount := rfl
@[simp] theorem State.setSignal_keys (s : State) (g : Option Nat) : (s.setSignal g).keys = s.keys := rfl
@[simp] theorem State.setSignal_keyCount (s : State) (g : Option Nat) : (s.setSignal g).keyCount = s.keyCount := rfl
@[simp] theorem State.setSignal_signal (s : State) (g : Option Nat) : (s.setSignal g).signal = g := rfl
@[simp] theorem State.setSignal_self (s : State) : s.setSignal s.signal = s := rfl

@[simp] theorem State.setActivity_setActivity (s : State) (a b : Activity) :
    (s.setActivity a).setActivity b = s.setActivity b := rfl
@[simp] theorem State.setKeys_setKeys (s : State) (ks ls : List (Option Word)) (n m : Nat) :
    (s.setKeys ks n).setKeys ls m = s.setKeys ls m := rfl
@[simp] theorem State.setSignal_setSignal (s : State) (g h : Option Nat) :
    (s.setSignal g).setSignal h = s.setSignal h := rfl

/-! ### A poll and a read -/

@[simp] theorem State.pollTaken_regs (s : State) : s.pollTaken.regs = s.regs := by
  unfold State.pollTaken; split <;> rfl
@[simp] theorem State.pollTaken_pc (s : State) : s.pollTaken.pc = s.pc := by
  unfold State.pollTaken; split <;> rfl
@[simp] theorem State.pollTaken_cond (s : State) : s.pollTaken.cond = s.cond := by
  unfold State.pollTaken; split <;> rfl
@[simp] theorem State.pollTaken_mem (s : State) : s.pollTaken.mem = s.mem := by
  unfold State.pollTaken; split <;> rfl
@[simp] theorem State.pollTaken_status (s : State) : s.pollTaken.status = s.status := by
  unfold State.pollTaken; split <;> rfl
@[simp] theorem State.pollTaken_activity (s : State) : s.pollTaken.activity = s.activity := by
  unfold State.pollTaken; split <;> rfl
@[simp] theorem State.pollTaken_output (s : State) : s.pollTaken.output = s.output := by
  unfold State.pollTaken; split <;> rfl
@[simp] theorem State.pollTaken_config (s : State) : s.pollTaken.config = s.config := by
  unfold State.pollTaken; split <;> rfl
@[simp] theorem State.pollTaken_keys (s : State) : s.pollTaken.keys = s.keys := by
  unfold State.pollTaken; split <;> rfl
@[simp] theorem State.pollTaken_keyCount (s : State) : s.pollTaken.keyCount = s.keyCount := by
  unfold State.pollTaken; split <;> rfl
@[simp] theorem State.pollTaken_signal (s : State) : s.pollTaken.signal = s.signal := by
  unfold State.pollTaken; split <;> rfl

@[simp] theorem State.latch_regs (s : State) (ans : Option Word) : (s.latch ans).regs = s.regs := by
  cases ans <;> rfl
@[simp] theorem State.latch_pc (s : State) (ans : Option Word) : (s.latch ans).pc = s.pc := by
  cases ans <;> rfl
@[simp] theorem State.latch_cond (s : State) (ans : Option Word) : (s.latch ans).cond = s.cond := by
  cases ans <;> rfl
@[simp] theorem State.latch_status (s : State) (ans : Option Word) : (s.latch ans).status = s.status := by
  cases ans <;> rfl
@[simp] theorem State.latch_activity (s : State) (ans : Option Word) : (s.latch ans).activity = s.activity := by
  cases ans <;> rfl
@[simp] theorem State.latch_output (s : State) (ans : Option Word) : (s.latch ans).output = s.output := by
  cases ans <;> rfl
@[simp] theorem State.latch_config (s : State) (ans : Option Word) : (s.latch ans).config = s.config := by
  cases ans <;> rfl
@[simp] theorem State.latch_polls (s : State) (ans : Option Word) : (s.latch ans).polls = s.polls := by
  cases ans <;> rfl
@[simp] theorem State.latch_pollCount (s : State) (ans : Option Word) : (s.latch ans).pollCount = s.pollCount := by
  cases ans <;> rfl
@[simp] theorem State.latch_keys (s : State) (ans : Option Word) : (s.latch ans).keys = s.keys := by
  cases ans <;> rfl
@[simp] theorem State.latch_keyCount (s : State) (ans : Option Word) : (s.latch ans).keyCount = s.keyCount := by
  cases ans <;> rfl
@[simp] theorem State.latch_signal (s : State) (ans : Option Word) : (s.latch ans).signal = s.signal := by
  cases ans <;> rfl

@[simp] theorem State.afterRead_regs (s : State) (a : Word) : (s.afterRead a).regs = s.regs := by
  unfold State.afterRead; split <;> simp
@[simp] theorem State.afterRead_pc (s : State) (a : Word) : (s.afterRead a).pc = s.pc := by
  unfold State.afterRead; split <;> simp
@[simp] theorem State.afterRead_cond (s : State) (a : Word) : (s.afterRead a).cond = s.cond := by
  unfold State.afterRead; split <;> simp
@[simp] theorem State.afterRead_status (s : State) (a : Word) : (s.afterRead a).status = s.status := by
  unfold State.afterRead; split <;> simp
@[simp] theorem State.afterRead_activity (s : State) (a : Word) : (s.afterRead a).activity = s.activity := by
  unfold State.afterRead; split <;> simp
@[simp] theorem State.afterRead_output (s : State) (a : Word) : (s.afterRead a).output = s.output := by
  unfold State.afterRead; split <;> simp
@[simp] theorem State.afterRead_config (s : State) (a : Word) : (s.afterRead a).config = s.config := by
  unfold State.afterRead; split <;> simp
@[simp] theorem State.afterRead_keys (s : State) (a : Word) : (s.afterRead a).keys = s.keys := by
  unfold State.afterRead; split <;> simp
@[simp] theorem State.afterRead_keyCount (s : State) (a : Word) : (s.afterRead a).keyCount = s.keyCount := by
  unfold State.afterRead; split <;> simp
@[simp] theorem State.afterRead_signal (s : State) (a : Word) : (s.afterRead a).signal = s.signal := by
  unfold State.afterRead; split <;> simp

/-! ### The entry of a TRAP and the store of a key -/

@[simp] theorem State.trapEntry_pc (s : State) : s.trapEntry.pc = s.pc := by
  unfold State.trapEntry; split <;> rfl
@[simp] theorem State.trapEntry_cond (s : State) : s.trapEntry.cond = s.cond := by
  unfold State.trapEntry; split <;> rfl
@[simp] theorem State.trapEntry_mem (s : State) : s.trapEntry.mem = s.mem := by
  unfold State.trapEntry; split <;> rfl
@[simp] theorem State.trapEntry_status (s : State) : s.trapEntry.status = s.status := by
  unfold State.trapEntry; split <;> rfl
@[simp] theorem State.trapEntry_activity (s : State) : s.trapEntry.activity = s.activity := by
  unfold State.trapEntry; split <;> rfl
@[simp] theorem State.trapEntry_output (s : State) : s.trapEntry.output = s.output := by
  unfold State.trapEntry; split <;> rfl
@[simp] theorem State.trapEntry_config (s : State) : s.trapEntry.config = s.config := by
  unfold State.trapEntry; split <;> rfl
@[simp] theorem State.trapEntry_polls (s : State) : s.trapEntry.polls = s.polls := by
  unfold State.trapEntry; split <;> rfl
@[simp] theorem State.trapEntry_pollCount (s : State) : s.trapEntry.pollCount = s.pollCount := by
  unfold State.trapEntry; split <;> rfl
@[simp] theorem State.trapEntry_keys (s : State) : s.trapEntry.keys = s.keys := by
  unfold State.trapEntry; split <;> rfl
@[simp] theorem State.trapEntry_keyCount (s : State) : s.trapEntry.keyCount = s.keyCount := by
  unfold State.trapEntry; split <;> rfl
@[simp] theorem State.trapEntry_signal (s : State) : s.trapEntry.signal = s.signal := by
  unfold State.trapEntry; split <;> rfl

@[simp] theorem State.storeKey_pc (s : State) (c : Word) : (s.storeKey c).pc = s.pc := by
  unfold State.storeKey; split <;> rfl
@[simp] theorem State.storeKey_mem (s : State) (c : Word) : (s.storeKey c).mem = s.mem := by
  unfold State.storeKey; split <;> rfl
@[simp] theorem State.storeKey_status (s : State) (c : Word) : (s.storeKey c).status = s.status := by
  unfold State.storeKey; split <;> rfl
@[simp] theorem State.storeKey_activity (s : State) (c : Word) : (s.storeKey c).activity = s.activity := by
  unfold State.storeKey; split <;> rfl
@[simp] theorem State.storeKey_output (s : State) (c : Word) : (s.storeKey c).output = s.output := by
  unfold State.storeKey; split <;> rfl
@[simp] theorem State.storeKey_config (s : State) (c : Word) : (s.storeKey c).config = s.config := by
  unfold State.storeKey; split <;> rfl
@[simp] theorem State.storeKey_polls (s : State) (c : Word) : (s.storeKey c).polls = s.polls := by
  unfold State.storeKey; split <;> rfl
@[simp] theorem State.storeKey_pollCount (s : State) (c : Word) : (s.storeKey c).pollCount = s.pollCount := by
  unfold State.storeKey; split <;> rfl
@[simp] theorem State.storeKey_keys (s : State) (c : Word) : (s.storeKey c).keys = s.keys := by
  unfold State.storeKey; split <;> rfl
@[simp] theorem State.storeKey_keyCount (s : State) (c : Word) : (s.storeKey c).keyCount = s.keyCount := by
  unfold State.storeKey; split <;> rfl
@[simp] theorem State.storeKey_signal (s : State) (c : Word) : (s.storeKey c).signal = s.signal := by
  unfold State.storeKey; split <;> rfl

/-! ### Registers -/

theorem State.reg_eq (s : State) (i : Reg) : s.reg i = s.regs[i.toNat]'i.isLt := rfl

/-- Registers depend on nothing but the register bank. -/
theorem State.reg_congr {s t : State} (h : t.regs = s.regs) (i : Reg) : t.reg i = s.reg i := by
  simp only [State.reg, h]

/-- A register reads back the last value written, and no other register changes (R21). -/
theorem State.reg_setReg (s : State) (i j : Reg) (v : Word) :
    (s.setReg i v).reg j = if j = i then v else s.reg j := by
  simp only [State.reg, State.setReg, Vector.getElem_set]
  by_cases h : j = i
  · simp [h]
  · have : ¬ i.toNat = j.toNat := fun e => h (BitVec.eq_of_toNat_eq e.symm)
    simp [h, this]

@[simp] theorem State.reg_setReg_self (s : State) (i : Reg) (v : Word) : (s.setReg i v).reg i = v := by
  simp [State.reg_setReg]

theorem State.reg_setReg_ne (s : State) {i j : Reg} (v : Word) (h : j ≠ i) :
    (s.setReg i v).reg j = s.reg j := by
  simp [State.reg_setReg, h]

@[simp] theorem State.reg_setRegCc (s : State) (i j : Reg) (v : Word) :
    (s.setRegCc i v).reg j = if j = i then v else s.reg j := s.reg_setReg i j v

@[simp] theorem State.reg_setPc (s : State) (v : Word) (j : Reg) : (s.setPc v).reg j = s.reg j := rfl
@[simp] theorem State.reg_setcc (s : State) (v : Word) (j : Reg) : (s.setcc v).reg j = s.reg j := rfl
@[simp] theorem State.reg_writeWord (s : State) (a v : Word) (j : Reg) : (s.writeWord a v).reg j = s.reg j := rfl
@[simp] theorem State.reg_emit (s : State) (e : Event) (j : Reg) : (s.emit e).reg j = s.reg j := rfl
@[simp] theorem State.reg_setActivity (s : State) (a : Activity) (j : Reg) : (s.setActivity a).reg j = s.reg j := rfl
@[simp] theorem State.reg_setKeys (s : State) (ks : List (Option Word)) (n : Nat) (j : Reg) : (s.setKeys ks n).reg j = s.reg j := rfl
@[simp] theorem State.reg_setSignal (s : State) (g : Option Nat) (j : Reg) : (s.setSignal g).reg j = s.reg j := rfl
@[simp] theorem State.reg_takeSignal (s : State) (j : Reg) : s.takeSignal.reg j = s.reg j := rfl
@[simp] theorem State.reg_terminate (s : State) (j : Reg) : s.terminate.reg j = s.reg j := rfl

@[simp] theorem State.reg_afterRead (s : State) (a : Word) (j : Reg) : (s.afterRead a).reg j = s.reg j :=
  State.reg_congr (by simp) j

/-- The entry of a TRAP writes R7 with the return address under the parameter, and nothing else (R180). -/
theorem State.reg_trapEntry (s : State) (j : Reg) :
    s.trapEntry.reg j = if s.config.trapLinksR7 = true ∧ j = 7#3 then s.pc else s.reg j := by
  unfold State.trapEntry
  split
  · simp_all [State.reg_setReg]
  · simp_all

/-- The key goes into R0, and no other register changes (R185). -/
theorem State.reg_storeKey (s : State) (c : Word) (j : Reg) :
    (s.storeKey c).reg j = if j = 0#3 then c else s.reg j := by
  unfold State.storeKey
  split <;> simp [State.reg_setReg]

/-- COND after the store of a key, by the parameter (92 D9). -/
theorem State.storeKey_cond (s : State) (c : Word) :
    (s.storeKey c).cond = if s.config.trapInSetsFlags then condOf c else s.cond := by
  unfold State.storeKey
  split <;> rfl

/-! ### A try of the blocking read -/

@[simp] theorem State.keyTaken_regs (s : State) : s.keyTaken.regs = s.regs := by
  unfold State.keyTaken; split <;> rfl
@[simp] theorem State.keyTaken_pc (s : State) : s.keyTaken.pc = s.pc := by
  unfold State.keyTaken; split <;> rfl
@[simp] theorem State.keyTaken_cond (s : State) : s.keyTaken.cond = s.cond := by
  unfold State.keyTaken; split <;> rfl
@[simp] theorem State.keyTaken_mem (s : State) : s.keyTaken.mem = s.mem := by
  unfold State.keyTaken; split <;> rfl
@[simp] theorem State.keyTaken_status (s : State) : s.keyTaken.status = s.status := by
  unfold State.keyTaken; split <;> rfl
@[simp] theorem State.keyTaken_activity (s : State) : s.keyTaken.activity = s.activity := by
  unfold State.keyTaken; split <;> rfl
@[simp] theorem State.keyTaken_output (s : State) : s.keyTaken.output = s.output := by
  unfold State.keyTaken; split <;> rfl
@[simp] theorem State.keyTaken_config (s : State) : s.keyTaken.config = s.config := by
  unfold State.keyTaken; split <;> rfl
@[simp] theorem State.keyTaken_polls (s : State) : s.keyTaken.polls = s.polls := by
  unfold State.keyTaken; split <;> rfl
@[simp] theorem State.keyTaken_pollCount (s : State) : s.keyTaken.pollCount = s.pollCount := by
  unfold State.keyTaken; split <;> rfl
@[simp] theorem State.keyTaken_signal (s : State) : s.keyTaken.signal = s.signal := by
  unfold State.keyTaken; split <;> rfl
@[simp] theorem State.reg_keyTaken (s : State) (j : Reg) : s.keyTaken.reg j = s.reg j := by
  unfold State.keyTaken; split <;> rfl
@[simp] theorem State.keyAnswer_setActivity (s : State) (a : Activity) : (s.setActivity a).keyAnswer = s.keyAnswer := rfl
theorem State.keyTaken_setActivity (s : State) (a : Activity) : (s.setActivity a).keyTaken = s.keyTaken.setActivity a := by
  obtain ⟨_, _, _, _, _, _, _, _, _, _, keys, _, _⟩ := s
  cases keys <;> rfl
@[simp] theorem State.keyAnswer_setSignal (s : State) (g : Option Nat) : (s.setSignal g).keyAnswer = s.keyAnswer := rfl
theorem State.keyTaken_setSignal (s : State) (g : Option Nat) : (s.setSignal g).keyTaken = s.keyTaken.setSignal g := by
  obtain ⟨_, _, _, _, _, _, _, _, _, _, keys, _, _⟩ := s
  cases keys <;> rfl
@[simp] theorem State.keyAnswer_emit (s : State) (e : Event) : (s.emit e).keyAnswer = s.keyAnswer := rfl
theorem State.keyTaken_emit (s : State) (e : Event) : (s.emit e).keyTaken = s.keyTaken.emit e := by
  obtain ⟨_, _, _, _, _, _, _, _, _, _, keys, _, _⟩ := s
  cases keys <;> rfl
@[simp] theorem State.keyAnswer_trapEntry (s : State) : s.trapEntry.keyAnswer = s.keyAnswer := by
  unfold State.trapEntry; split <;> rfl
/-- What a try leaves to come depends on nothing but what was to come. -/
theorem State.keyTaken_congr {s t : State} (h : t.keys = s.keys) (k : t.keyCount = s.keyCount) :
    t.keyTaken.keys = s.keyTaken.keys ∧ t.keyTaken.keyCount = s.keyTaken.keyCount := by
  simp only [State.keyTaken, h, k]
  cases s.keys <;> simp
/-- A scripted answer is the one a try gets. -/
theorem State.keyAnswer_of_keys {s : State} {ans : Option Word} {rest : List (Option Word)}
    (h : s.keys = ans :: rest) : s.keyAnswer = ans ∧ s.keyTaken = s.setKeys rest s.keyCount := by
  simp [State.keyAnswer, State.keyTaken, h]

end Sys2Proof.Machine
end

