-- ==== Sys2Proof/Laws/Ops.lean ====
section
/-! SUPPORT. The spec lemmas of the shared operations: what a read, a write, a flag update and a point that
admits the interrupt signal can do. -/

namespace Sys2Proof.Machine

/-! ### The memory port -/

theorem State.afterRead_ne {s : State} {a : Word} (h : a ≠ s.config.kbsrAddr) : s.afterRead a = s := by
  simp [State.afterRead, h]

theorem State.readWord_ne {s : State} {a : Word} (h : a ≠ s.config.kbsrAddr) :
    s.readWord a = s.mem.read a := by
  simp [State.readWord, State.afterRead_ne h]

theorem State.afterRead_kbsr (s : State) :
    s.afterRead s.config.kbsrAddr = s.pollTaken.latch s.pollAnswer := by
  simp [State.afterRead]

/-- Memory after the latch of a poll that found the key `c`. -/
theorem State.latch_some_mem (s : State) (c : Word) :
    (s.latch (some c)).mem
      = (s.mem.write s.config.kbsrAddr 0x8000#16).write s.config.kbdrAddr c := rfl

/-- Memory after the latch of a poll that found none. -/
theorem State.latch_none_mem (s : State) :
    (s.latch none).mem = s.mem.write s.config.kbsrAddr 0x0000#16 := rfl

/-- A read leaves every word outside the keyboard registers as it was (R55, R56). -/
theorem State.mem_read_afterRead (s : State) (a : Word) {b : Word} (h1 : b ≠ s.config.kbsrAddr)
    (h2 : b ≠ s.config.kbdrAddr) : (s.afterRead a).mem.read b = s.mem.read b := by
  unfold State.afterRead
  split
  · cases s.pollAnswer <;> simp [State.latch, Memory.read_write, h1, h2]
  · rfl

/-- A poll takes one answer: the list is shorter by one, or the free value has answered once more (R232). -/
theorem State.pollTaken_answers (s : State) :
    (s.pollTaken.polls.length < s.polls.length ∧ s.pollTaken.pollCount = s.pollCount) ∨
    (s.pollTaken.polls = s.polls ∧ s.pollCount < s.pollTaken.pollCount) := by
  unfold State.pollTaken
  split <;> rename_i h <;> simp [h]

/-- No read gives an answer back. -/
theorem State.afterRead_answers (s : State) (a : Word) :
    (s.afterRead a).polls.length ≤ s.polls.length ∧ s.pollCount ≤ (s.afterRead a).pollCount := by
  by_cases h : a = s.config.kbsrAddr
  · subst h
    rcases s.pollTaken_answers with ⟨p, c⟩ | ⟨p, c⟩ <;> simp [State.afterRead_kbsr, p, c] <;> omega
  · simp [State.afterRead_ne h]

/-- A read that changes memory took an answer (R55, R56). -/
theorem State.afterRead_polled (s : State) (a : Word) :
    (s.afterRead a).mem = s.mem ∨ (s.afterRead a).polls.length < s.polls.length ∨
      s.pollCount < (s.afterRead a).pollCount := by
  by_cases h : a = s.config.kbsrAddr
  · subst h
    rcases s.pollTaken_answers with ⟨p, c⟩ | ⟨p, c⟩ <;> simp [State.afterRead_kbsr, p, c]
  · exact .inl (by rw [State.afterRead_ne h])

theorem State.wf_latch {s : State} (h : s.mem.wf = true) (ans : Option Word) :
    (s.latch ans).mem.wf = true := by
  cases ans with
  | none => rw [State.latch_none_mem]; exact Memory.wf_write h _ _
  | some c => rw [State.latch_some_mem]; exact Memory.wf_write (Memory.wf_write h _ _) _ _

/-- A read keeps the canonical form. -/
theorem State.wf_afterRead {s : State} (h : s.mem.wf = true) (a : Word) :
    (s.afterRead a).mem.wf = true := by
  unfold State.afterRead
  split
  · exact State.wf_latch (by simpa using h) _
  · exact h

/-- A store keeps the canonical form. -/
theorem State.wf_writeWord {s : State} (h : s.mem.wf = true) (a v : Word) :
    (s.writeWord a v).mem.wf = true :=
  Memory.wf_write h a v

/-! ### A read does not look at the keys, the signal, the activity or the output -/

theorem State.pollTaken_setSignal (s : State) (g : Option Nat) : (s.setSignal g).pollTaken = s.pollTaken.setSignal g := by
  obtain ⟨_, _, _, _, _, _, _, _, polls, _, _, _, _⟩ := s
  cases polls <;> rfl

theorem State.latch_setSignal (s : State) (g : Option Nat) (ans : Option Word) :
    (s.setSignal g).latch ans = (s.latch ans).setSignal g := by
  cases ans <;> rfl

theorem State.afterRead_setSignal (s : State) (g : Option Nat) (a : Word) :
    (s.setSignal g).afterRead a = (s.afterRead a).setSignal g := by
  by_cases h : a = s.config.kbsrAddr
  · subst h
    rw [State.afterRead_kbsr, ← State.latch_setSignal, ← State.pollTaken_setSignal]
    exact State.afterRead_kbsr (s.setSignal g)
  · rw [State.afterRead_ne h]; exact State.afterRead_ne h

@[simp] theorem State.readWord_setSignal (s : State) (g : Option Nat) (a : Word) :
    (s.setSignal g).readWord a = s.readWord a := by
  simp [State.readWord, State.afterRead_setSignal]

theorem State.pollTaken_setKeys (s : State) (ks : List (Option Word)) (n : Nat) :
    (s.setKeys ks n).pollTaken = s.pollTaken.setKeys ks n := by
  obtain ⟨_, _, _, _, _, _, _, _, polls, _, _, _, _⟩ := s
  cases polls <;> rfl

theorem State.latch_setKeys (s : State) (ks : List (Option Word)) (n : Nat) (ans : Option Word) :
    (s.setKeys ks n).latch ans = (s.latch ans).setKeys ks n := by
  cases ans <;> rfl

theorem State.afterRead_setKeys (s : State) (ks : List (Option Word)) (n : Nat) (a : Word) :
    (s.setKeys ks n).afterRead a = (s.afterRead a).setKeys ks n := by
  by_cases h : a = s.config.kbsrAddr
  · subst h
    rw [State.afterRead_kbsr, ← State.latch_setKeys, ← State.pollTaken_setKeys]
    exact State.afterRead_kbsr (s.setKeys ks n)
  · rw [State.afterRead_ne h]; exact State.afterRead_ne h

@[simp] theorem State.readWord_setKeys (s : State) (ks : List (Option Word)) (n : Nat) (a : Word) :
    (s.setKeys ks n).readWord a = s.readWord a := by
  simp [State.readWord, State.afterRead_setKeys]

theorem State.pollTaken_setActivity (s : State) (x : Activity) : (s.setActivity x).pollTaken = s.pollTaken.setActivity x := by
  obtain ⟨_, _, _, _, _, _, _, _, polls, _, _, _, _⟩ := s
  cases polls <;> rfl

theorem State.latch_setActivity (s : State) (x : Activity) (ans : Option Word) :
    (s.setActivity x).latch ans = (s.latch ans).setActivity x := by
  cases ans <;> rfl

theorem State.afterRead_setActivity (s : State) (x : Activity) (a : Word) :
    (s.setActivity x).afterRead a = (s.afterRead a).setActivity x := by
  by_cases h : a = s.config.kbsrAddr
  · subst h
    rw [State.afterRead_kbsr, ← State.latch_setActivity, ← State.pollTaken_setActivity]
    exact State.afterRead_kbsr (s.setActivity x)
  · rw [State.afterRead_ne h]; exact State.afterRead_ne h

@[simp] theorem State.readWord_setActivity (s : State) (x : Activity) (a : Word) :
    (s.setActivity x).readWord a = s.readWord a := by
  simp [State.readWord, State.afterRead_setActivity]

theorem State.pollTaken_emit (s : State) (e : Event) : (s.emit e).pollTaken = s.pollTaken.emit e := by
  obtain ⟨_, _, _, _, _, _, _, _, polls, _, _, _, _⟩ := s
  cases polls <;> rfl

theorem State.latch_emit (s : State) (e : Event) (ans : Option Word) :
    (s.emit e).latch ans = (s.latch ans).emit e := by
  cases ans <;> rfl

theorem State.afterRead_emit (s : State) (e : Event) (a : Word) :
    (s.emit e).afterRead a = (s.afterRead a).emit e := by
  by_cases h : a = s.config.kbsrAddr
  · subst h
    rw [State.afterRead_kbsr, ← State.latch_emit, ← State.pollTaken_emit]
    exact State.afterRead_kbsr (s.emit e)
  · rw [State.afterRead_ne h]; exact State.afterRead_ne h

@[simp] theorem State.readWord_emit (s : State) (e : Event) (a : Word) :
    (s.emit e).readWord a = s.readWord a := by
  simp [State.readWord, State.afterRead_emit]

/-! ### The entry of a TRAP and the write of a key do not look at the keys or the signal -/

theorem State.trapEntry_setSignal (s : State) (g : Option Nat) :
    (s.setSignal g).trapEntry = s.trapEntry.setSignal g := by
  by_cases h : s.config.trapLinksR7 = true
  · simp [State.trapEntry, h]; rfl
  · simp [State.trapEntry, h]

theorem State.trapEntry_setKeys (s : State) (ks : List (Option Word)) (n : Nat) :
    (s.setKeys ks n).trapEntry = s.trapEntry.setKeys ks n := by
  by_cases h : s.config.trapLinksR7 = true
  · simp [State.trapEntry, h]; rfl
  · simp [State.trapEntry, h]

theorem State.storeKey_setSignal (s : State) (c : Word) (g : Option Nat) :
    (s.setSignal g).storeKey c = (s.storeKey c).setSignal g := by
  by_cases h : s.config.trapInSetsFlags = true <;> simp [State.storeKey, h] <;> rfl

/-! ### Flags -/

/-- COND after an update is exactly one of the three flags (R25, R27). -/
theorem condOf_cases (v : Word) :
    (v = 0x0000#16 ∧ condOf v = condZero) ∨
    (v ≠ 0x0000#16 ∧ v.msb = true ∧ condOf v = condNegative) ∨
    (v ≠ 0x0000#16 ∧ v.msb = false ∧ condOf v = condPositive) := by
  unfold condOf
  by_cases h : v = 0x0000#16
  · simp [h]
  · cases hm : v.msb <;> simp [h]

/-! ### Points that admit the signal -/

/-- What holds of taking the signal and of going on holds after the point (R228-R230). -/
theorem State.atPoint_elim {P : State → Prop} (s : State) (go : State → State)
    (taken : s.signal = some 0 → P s.takeSignal)
    (passed : ∀ n, s.signal = some (n + 1) → P (go (s.setSignal (some n))))
    (none : s.signal = none → P (go s)) : P (s.atPoint go) := by
  unfold State.atPoint
  split
  · exact taken ‹_›
  · exact passed _ ‹_›
  · exact none ‹_›

/-- With no signal a point does nothing. -/
theorem State.atPoint_none {s : State} (h : s.signal = none) (go : State → State) :
    s.atPoint go = go s := by
  simp [State.atPoint, h]

/-- With no signal due a point passes, and a later signal is one point nearer. -/
theorem State.atPoint_pass {s : State} (h : s.signal ≠ some 0) (go : State → State) :
    s.atPoint go = go (s.setSignal (s.signal.map (· - 1))) := by
  unfold State.atPoint
  split
  · contradiction
  · rename_i n hn; simp [hn]
  · rename_i hn
    have : s.setSignal none = s := by rw [← hn, State.setSignal_self]
    simp [hn, this]

/-- A signal that is due is taken at the point. -/
theorem State.atPoint_due {s : State} (h : s.signal = some 0) (go : State → State) :
    s.atPoint go = s.takeSignal := by
  simp [State.atPoint, h]

/-- A point does not look at the keys if its continuation does not. -/
theorem State.atPoint_setKeys {s : State} {go : State → State} (ks : List (Option Word)) (n : Nat)
    (h : ∀ t : State, go (t.setKeys ks n) = (go t).setKeys ks n) :
    (s.setKeys ks n).atPoint go = (s.atPoint go).setKeys ks n := by
  rcases hg : s.signal with _ | _ | n
  · rw [State.atPoint_none hg, State.atPoint_none (by exact hg), h]
  · rw [State.atPoint_due hg, State.atPoint_due (by exact hg)]; rfl
  · rw [State.atPoint_pass (by simp [hg]), State.atPoint_pass (by simp [hg]), ← h]; rfl

end Sys2Proof.Machine
end

