-- ==== Sys2Proof/Laws/PerInstr.lean ====
section
/-! SUPPORT. A statement about every instruction as syntax, one lemma per constructor: the word the encoder
gives lies in the instruction's row of spec/opcode_table.json (its bits under the row's mask are the row's
match value). -/

namespace Sys2Proof.Laws.EncodesInRow

def Statement (i : Instr) : Prop := encode i &&& i.row.mask = i.row.bits

theorem br (nzp : BitVec 3) (off : BitVec 9) : Statement (.br nzp off) := by
  simp only [Statement, encode, Instr.row, place]
  ext i hi
  interval_cases i <;> simp

theorem add (dr : Reg) (sr1 : Reg) (sr2 : Reg) : Statement (.add dr sr1 sr2) := by
  simp only [Statement, encode, Instr.row, place]
  ext i hi
  interval_cases i <;> simp

theorem addi (dr : Reg) (sr1 : Reg) (imm : BitVec 5) : Statement (.addi dr sr1 imm) := by
  simp only [Statement, encode, Instr.row, place]
  ext i hi
  interval_cases i <;> simp

theorem ld (dr : Reg) (off : BitVec 9) : Statement (.ld dr off) := by
  simp only [Statement, encode, Instr.row, place]
  ext i hi
  interval_cases i <;> simp

theorem st (sr : Reg) (off : BitVec 9) : Statement (.st sr off) := by
  simp only [Statement, encode, Instr.row, place]
  ext i hi
  interval_cases i <;> simp

theorem jsr (off : BitVec 11) : Statement (.jsr off) := by
  simp only [Statement, encode, Instr.row, place]
  ext i hi
  interval_cases i <;> simp

theorem jsrr (base : Reg) : Statement (.jsrr base) := by
  simp only [Statement, encode, Instr.row, place]
  ext i hi
  interval_cases i <;> simp

theorem and (dr : Reg) (sr1 : Reg) (sr2 : Reg) : Statement (.and dr sr1 sr2) := by
  simp only [Statement, encode, Instr.row, place]
  ext i hi
  interval_cases i <;> simp

theorem andi (dr : Reg) (sr1 : Reg) (imm : BitVec 5) : Statement (.andi dr sr1 imm) := by
  simp only [Statement, encode, Instr.row, place]
  ext i hi
  interval_cases i <;> simp

theorem ldr (dr : Reg) (base : Reg) (off : BitVec 6) : Statement (.ldr dr base off) := by
  simp only [Statement, encode, Instr.row, place]
  ext i hi
  interval_cases i <;> simp

theorem str (sr : Reg) (base : Reg) (off : BitVec 6) : Statement (.str sr base off) := by
  simp only [Statement, encode, Instr.row, place]
  ext i hi
  interval_cases i <;> simp

theorem rti : Statement .rti := rfl

theorem not (dr : Reg) (sr1 : Reg) : Statement (.not dr sr1) := by
  simp only [Statement, encode, Instr.row, place]
  ext i hi
  interval_cases i <;> simp

theorem ldi (dr : Reg) (off : BitVec 9) : Statement (.ldi dr off) := by
  simp only [Statement, encode, Instr.row, place]
  ext i hi
  interval_cases i <;> simp

theorem sti (sr : Reg) (off : BitVec 9) : Statement (.sti sr off) := by
  simp only [Statement, encode, Instr.row, place]
  ext i hi
  interval_cases i <;> simp

theorem jmp (base : Reg) : Statement (.jmp base) := by
  simp only [Statement, encode, Instr.row, place]
  ext i hi
  interval_cases i <;> simp

theorem ret : Statement .ret := rfl

theorem res : Statement .res := rfl

theorem lea (dr : Reg) (off : BitVec 9) : Statement (.lea dr off) := by
  simp only [Statement, encode, Instr.row, place]
  ext i hi
  interval_cases i <;> simp

theorem trap (vect : BitVec 8) : Statement (.trap vect) := by
  simp only [Statement, encode, Instr.row, place]
  ext i hi
  interval_cases i <;> simp

theorem getc : Statement .getc := rfl

theorem out : Statement .out := rfl

theorem puts : Statement .puts := rfl

theorem inp : Statement .inp := rfl

theorem putsp : Statement .putsp := rfl

theorem halt : Statement .halt := rfl

end Sys2Proof.Laws.EncodesInRow
end

