-- ==== Sys2Proof/Laws/Trap.lean ====
section
/-! SUPPORT. What the trap routines keep, said once for the loops of PUTS and PUTSP and for the waits of GETC
and IN. -/

namespace Sys2Proof.Machine

/-- What every routine keeps from `s` to `t`: PC, the parameters, the canonical form, every word outside the
keyboard registers, the output so far; with no signal about, the run status, which becomes Halted only by taking the
signal; and all of memory unless a poll took an answer of the host. -/
structure RoutineKeeps (s t : State) : Prop where
  pc : t.pc = s.pc
  config : t.config = s.config
  wf : s.mem.wf = true → t.mem.wf = true
  mem : ∀ a, a ≠ s.config.kbsrAddr → a ≠ s.config.kbdrAddr → t.mem.read a = s.mem.read a
  output : s.output <+: t.output
  quiet : s.signal = none → t.signal = none ∧ t.status = s.status
  taken : s.status = .running → t.status = .halted → t.signal = none
  answers : t.polls.length ≤ s.polls.length ∧ s.pollCount ≤ t.pollCount
  polled : t.mem = s.mem ∨ t.polls.length < s.polls.length ∨ s.pollCount < t.pollCount

theorem RoutineKeeps.refl (s : State) : RoutineKeeps s s :=
  ⟨rfl, rfl, id, fun _ _ _ => rfl, List.prefix_refl _, fun h => ⟨h, rfl⟩, fun r h => by simp [r] at h,
    ⟨le_rfl, le_rfl⟩, .inl rfl⟩

theorem RoutineKeeps.trans {s t u : State} (h : RoutineKeeps s t) (k : RoutineKeeps t u) :
    RoutineKeeps s u where
  pc := k.pc.trans h.pc
  config := k.config.trans h.config
  wf := fun w => k.wf (h.wf w)
  mem := fun a h1 h2 =>
    (k.mem a (by rw [h.config]; exact h1) (by rw [h.config]; exact h2)).trans (h.mem a h1 h2)
  output := h.output.trans k.output
  quiet := fun w => ⟨(k.quiet (h.quiet w).1).1, (k.quiet (h.quiet w).1).2.trans (h.quiet w).2⟩
  taken := fun r h' => by
    cases ht : t.status
    · exact k.taken ht h'
    · exact (k.quiet (h.taken r ht)).1
  answers := ⟨k.answers.1.trans h.answers.1, h.answers.2.trans k.answers.2⟩
  polled := by
    have hs := h.answers
    have ks := k.answers
    rcases h.polled with hm | hm
    · rcases k.polled with km | km
      · exact .inl (km.trans hm)
      · exact .inr (by omega)
    · exact .inr (by omega)

theorem RoutineKeeps.takeSignal {s : State} (h : s.signal = some 0) : RoutineKeeps s s.takeSignal :=
  ⟨rfl, rfl, id, fun _ _ _ => rfl, List.prefix_append _ _, fun w => by simp [h] at w,
    fun _ _ => rfl, ⟨le_rfl, le_rfl⟩, .inl rfl⟩

theorem RoutineKeeps.tick {s : State} {n m : Nat} (h : s.signal = some n) :
    RoutineKeeps s (s.setSignal (some m)) :=
  ⟨rfl, rfl, id, fun _ _ _ => rfl, List.prefix_refl _, fun w => by simp [h] at w,
    fun r h => by simp [r] at h, ⟨le_rfl, le_rfl⟩, .inl rfl⟩

theorem RoutineKeeps.afterRead (s : State) (a : Word) : RoutineKeeps s (s.afterRead a) :=
  ⟨by simp, by simp, fun w => State.wf_afterRead w a, fun _ h1 h2 => s.mem_read_afterRead a h1 h2,
    by simp, fun w => ⟨by simpa using w, by simp⟩, fun r h => by simp [r] at h,
    s.afterRead_answers a, s.afterRead_polled a⟩

theorem RoutineKeeps.emit (s : State) (e : Event) : RoutineKeeps s (s.emit e) :=
  ⟨rfl, rfl, id, fun _ _ _ => rfl, List.prefix_append _ _, fun w => ⟨w, rfl⟩,
    fun r h => by simp [r] at h, ⟨le_rfl, le_rfl⟩, .inl rfl⟩

theorem RoutineKeeps.storeKey (s : State) (c : Word) : RoutineKeeps s (s.storeKey c) :=
  ⟨by simp, by simp, fun w => by simpa using w, fun _ _ _ => by simp, by simp,
    fun w => ⟨by simpa using w, by simp⟩, fun r h => by simp [r] at h, by simp, .inl (by simp)⟩

theorem RoutineKeeps.trapEntry (s : State) : RoutineKeeps s s.trapEntry :=
  ⟨by simp, by simp, fun w => by simpa using w, fun _ _ _ => by simp, by simp,
    fun w => ⟨by simpa using w, by simp⟩, fun r h => by simp [r] at h, by simp, .inl (by simp)⟩

theorem RoutineKeeps.setActivity (s : State) (a : Activity) : RoutineKeeps s (s.setActivity a) :=
  ⟨rfl, rfl, id, fun _ _ _ => rfl, List.prefix_refl _, fun w => ⟨w, rfl⟩,
    fun r h => by simp [r] at h, ⟨le_rfl, le_rfl⟩, .inl rfl⟩

theorem RoutineKeeps.keyTaken (s : State) : RoutineKeeps s s.keyTaken :=
  ⟨by simp, by simp, fun w => by simpa using w, fun _ _ _ => by simp, by simp,
    fun w => ⟨by simpa using w, by simp⟩, fun r h => by simp [r] at h, by simp, .inl (by simp)⟩

/-- A point keeps what its continuation keeps. -/
theorem RoutineKeeps.atPoint {s : State} {go : State → State} (h : ∀ t, RoutineKeeps t (go t)) :
    RoutineKeeps s (s.atPoint go) :=
  s.atPoint_elim go RoutineKeeps.takeSignal
    (fun _ hn => (RoutineKeeps.tick hn).trans (h _)) (fun _ => h _)

/-! ### One turn of each string loop (R190, R196) -/

theorem putsLoop_succ (fuel : Nat) (a : Word) (s : State) :
    putsLoop (fuel + 1) a s = s.atPoint fun t =>
      if t.readWord a = 0x0000#16 then t.afterRead a
      else (t.afterRead a).atPoint fun u => putsLoop fuel (a + 1#16) (u.emit (.out (t.readWord a))) :=
  rfl

theorem putspLoop_succ (fuel : Nat) (a : Word) (s : State) :
    putspLoop (fuel + 1) a s = s.atPoint fun t =>
      if lowByte (t.readWord a) = 0#8 then t.afterRead a
      else (t.afterRead a).atPoint fun u =>
        if highByte (t.readWord a) = 0#8 then u.emit (.out (zext (lowByte (t.readWord a))))
        else (u.emit (.out (zext (lowByte (t.readWord a))))).atPoint fun v =>
          putspLoop fuel (a + 1#16) (v.emit (.out (zext (highByte (t.readWord a))))) :=
  rfl

theorem putsLoop_keeps (fuel : Nat) (a : Word) (s : State) : RoutineKeeps s (putsLoop fuel a s) := by
  induction fuel generalizing a s with
  | zero => exact RoutineKeeps.setActivity s _
  | succ fuel ih =>
    refine RoutineKeeps.atPoint fun t => ?_
    split
    · exact RoutineKeeps.afterRead t a
    · exact (RoutineKeeps.afterRead t a).trans
        (RoutineKeeps.atPoint fun u => (RoutineKeeps.emit u _).trans (ih _ _))

theorem putspLoop_keeps (fuel : Nat) (a : Word) (s : State) : RoutineKeeps s (putspLoop fuel a s) := by
  induction fuel generalizing a s with
  | zero => exact RoutineKeeps.setActivity s _
  | succ fuel ih =>
    refine RoutineKeeps.atPoint fun t => ?_
    split
    · exact RoutineKeeps.afterRead t a
    · refine (RoutineKeeps.afterRead t a).trans (RoutineKeeps.atPoint fun u => ?_)
      split
      · exact RoutineKeeps.emit u _
      · exact (RoutineKeeps.emit u _).trans
          (RoutineKeeps.atPoint fun v => (RoutineKeeps.emit v _).trans (ih _ _))

theorem getcWait_keeps (s : State) : RoutineKeeps s s.getcWait := by
  refine RoutineKeeps.atPoint fun t => ?_
  split
  · exact (RoutineKeeps.keyTaken t).trans (RoutineKeeps.setActivity _ _)
  · exact (RoutineKeeps.keyTaken t).trans (RoutineKeeps.storeKey _ _)

theorem inWait_keeps (s : State) : RoutineKeeps s s.inWait := by
  refine RoutineKeeps.atPoint fun t => ?_
  split
  · exact (RoutineKeeps.keyTaken t).trans (RoutineKeeps.setActivity _ _)
  · exact (RoutineKeeps.keyTaken t).trans
      (RoutineKeeps.atPoint fun u => (RoutineKeeps.emit u _).trans
        (RoutineKeeps.atPoint fun v => RoutineKeeps.storeKey v _))

/-! ### The string loops keep the register bank, COND and the keys (R182) -/

/-- A point keeps `f` if its continuation does and `f` does not look at what the signal changes. -/
theorem State.atPoint_keeps {α : Type} {f : State → α} {s : State} {go : State → State}
    (taken : ∀ t : State, f t.takeSignal = f t) (tick : ∀ (t : State) n, f (t.setSignal (some n)) = f t)
    (h : ∀ t, f (go t) = f t) : f (s.atPoint go) = f s :=
  s.atPoint_elim (P := fun t => f t = f s) go (fun _ => taken s)
    (fun n _ => (h _).trans (tick s n)) (fun _ => h s)

theorem putsLoop_regs (fuel : Nat) (a : Word) (s : State) : (putsLoop fuel a s).regs = s.regs := by
  induction fuel generalizing a s with
  | zero => rfl
  | succ fuel ih =>
    refine State.atPoint_keeps (f := State.regs) (fun _ => rfl) (fun _ _ => rfl) fun t => ?_
    split
    · simp
    · refine (State.atPoint_keeps (f := State.regs) (fun _ => rfl) (fun _ _ => rfl) fun u => ?_).trans
        (t.afterRead_regs a)
      exact (ih _ _).trans rfl

theorem putsLoop_cond (fuel : Nat) (a : Word) (s : State) : (putsLoop fuel a s).cond = s.cond := by
  induction fuel generalizing a s with
  | zero => rfl
  | succ fuel ih =>
    refine State.atPoint_keeps (f := State.cond) (fun _ => rfl) (fun _ _ => rfl) fun t => ?_
    split
    · simp
    · refine (State.atPoint_keeps (f := State.cond) (fun _ => rfl) (fun _ _ => rfl) fun u => ?_).trans
        (t.afterRead_cond a)
      exact (ih _ _).trans rfl

theorem putsLoop_keys (fuel : Nat) (a : Word) (s : State) : (putsLoop fuel a s).keys = s.keys := by
  induction fuel generalizing a s with
  | zero => rfl
  | succ fuel ih =>
    refine State.atPoint_keeps (f := State.keys) (fun _ => rfl) (fun _ _ => rfl) fun t => ?_
    split
    · simp
    · refine (State.atPoint_keeps (f := State.keys) (fun _ => rfl) (fun _ _ => rfl) fun u => ?_).trans
        (t.afterRead_keys a)
      exact (ih _ _).trans rfl

theorem putspLoop_regs (fuel : Nat) (a : Word) (s : State) : (putspLoop fuel a s).regs = s.regs := by
  induction fuel generalizing a s with
  | zero => rfl
  | succ fuel ih =>
    refine State.atPoint_keeps (f := State.regs) (fun _ => rfl) (fun _ _ => rfl) fun t => ?_
    split
    · simp
    · refine (State.atPoint_keeps (f := State.regs) (fun _ => rfl) (fun _ _ => rfl) fun u => ?_).trans
        (by simp)
      split
      · rfl
      · exact State.atPoint_keeps (f := State.regs) (fun _ => rfl) (fun _ _ => rfl) fun v => ih _ _

theorem putspLoop_cond (fuel : Nat) (a : Word) (s : State) : (putspLoop fuel a s).cond = s.cond := by
  induction fuel generalizing a s with
  | zero => rfl
  | succ fuel ih =>
    refine State.atPoint_keeps (f := State.cond) (fun _ => rfl) (fun _ _ => rfl) fun t => ?_
    split
    · simp
    · refine (State.atPoint_keeps (f := State.cond) (fun _ => rfl) (fun _ _ => rfl) fun u => ?_).trans
        (by simp)
      split
      · rfl
      · exact State.atPoint_keeps (f := State.cond) (fun _ => rfl) (fun _ _ => rfl) fun v => ih _ _

theorem putspLoop_keys (fuel : Nat) (a : Word) (s : State) : (putspLoop fuel a s).keys = s.keys := by
  induction fuel generalizing a s with
  | zero => rfl
  | succ fuel ih =>
    refine State.atPoint_keeps (f := State.keys) (fun _ => rfl) (fun _ _ => rfl) fun t => ?_
    split
    · simp
    · refine (State.atPoint_keeps (f := State.keys) (fun _ => rfl) (fun _ _ => rfl) fun u => ?_).trans
        (by simp)
      split
      · rfl
      · exact State.atPoint_keeps (f := State.keys) (fun _ => rfl) (fun _ _ => rfl) fun v => ih _ _

/-! ### A routine that ends Halted leaves no instruction unfinished -/

theorem State.halted_idle_of_atPoint {s : State} {go : State → State}
    (hs : s.status = .running ∧ s.activity = .idle)
    (h : ∀ t, t.status = .running ∧ t.activity = .idle →
      (go t).status = .halted → (go t).activity = .idle) :
    (s.atPoint go).status = .halted → (s.atPoint go).activity = .idle :=
  s.atPoint_elim (P := fun t => t.status = .halted → t.activity = .idle) go (fun _ _ => hs.2)
    (fun n _ => h (s.setSignal (some n)) hs) (fun _ => h s hs)

theorem putsLoop_halted_idle (fuel : Nat) (a : Word) (s : State)
    (hs : s.status = .running ∧ s.activity = .idle) :
    (putsLoop fuel a s).status = .halted → (putsLoop fuel a s).activity = .idle := by
  induction fuel generalizing a s with
  | zero => intro h; simp [putsLoop, hs.1] at h
  | succ fuel ih =>
    refine State.halted_idle_of_atPoint hs fun t ht => ?_
    split
    · intro h; simp [ht.1] at h
    · exact State.halted_idle_of_atPoint (by simpa using ht) fun u hu => ih _ _ hu

theorem putspLoop_halted_idle (fuel : Nat) (a : Word) (s : State)
    (hs : s.status = .running ∧ s.activity = .idle) :
    (putspLoop fuel a s).status = .halted → (putspLoop fuel a s).activity = .idle := by
  induction fuel generalizing a s with
  | zero => intro h; simp [putspLoop, hs.1] at h
  | succ fuel ih =>
    refine State.halted_idle_of_atPoint hs fun t ht => ?_
    split
    · intro h; simp [ht.1] at h
    · refine State.halted_idle_of_atPoint (by simpa using ht) fun u hu => ?_
      split
      · intro h; simp [hu.1] at h
      · exact State.halted_idle_of_atPoint (by simpa using hu) fun v hv => ih _ _ hv

theorem getcWait_halted_idle (s : State) (hs : s.status = .running ∧ s.activity = .idle) :
    s.getcWait.status = .halted → s.getcWait.activity = .idle := by
  refine State.halted_idle_of_atPoint hs fun t ht => ?_
  split
  · intro h; simp [ht.1] at h
  · intro h; simp [ht.1] at h

theorem inWait_halted_idle (s : State) (hs : s.status = .running ∧ s.activity = .idle) :
    s.inWait.status = .halted → s.inWait.activity = .idle := by
  refine State.halted_idle_of_atPoint hs fun t ht => ?_
  split
  · intro h; simp [ht.1] at h
  · exact State.halted_idle_of_atPoint (by simpa using ht) fun u hu =>
      State.halted_idle_of_atPoint hu fun v hv => by intro h; simp [hv.1] at h

end Sys2Proof.Machine
end

