-- ==== Sys2Proof/Laws/Step.lean ====
section
/-! SUPPORT. The step, said once: which action a state takes, and what the step answers for it. -/

namespace Sys2Proof.Machine

theorem step_of_settle {s t : State} (h : s.nextAction = .settle t) : step s = .next t := by
  simp [step, h]

theorem step_of_run {s t : State} {i : Instr} (h : s.nextAction = .run i t) : step s = exec i t := by
  simp [step, h]

/-- The action of a step, by what the state is in the middle of (R30, R31, R228, R272). -/
theorem State.nextAction_cases (s : State) :
    (s.status = .halted ∧ s.nextAction = .settle s) ∨
    (s.status = .running ∧ s.activity = .idle ∧ s.signal = some 0 ∧
      s.nextAction = .settle s.takeSignal) ∨
    (s.status = .running ∧ s.activity = .idle ∧ s.signal ≠ some 0 ∧
      s.nextAction = (s.setSignal (s.signal.map (· - 1))).fetch) ∨
    (s.status = .running ∧ s.activity = .waitGetc ∧
      s.nextAction = .settle (s.setActivity .idle).getcWait) ∨
    (s.status = .running ∧ s.activity = .waitIn ∧
      s.nextAction = .settle (s.setActivity .idle).inWait) ∨
    (∃ a, s.status = .running ∧ s.activity = .puts a ∧
      s.nextAction = .settle (putsLoop stringWords a (s.setActivity .idle))) ∨
    (∃ a, s.status = .running ∧ s.activity = .putsp a ∧
      s.nextAction = .settle (putspLoop stringWords a (s.setActivity .idle))) := by
  obtain ⟨regs, pc, cond, mem, status, activity, output, config, polls, pollCount, keys, keyCount, signal⟩ := s
  cases status
  · cases activity <;> try (simp [State.nextAction]; done)
    rcases signal with _ | _ | n <;> simp [State.nextAction, State.atBoundary]
    rfl
  · exact Or.inl ⟨rfl, by cases activity <;> rfl⟩

/-- Everything a step can do: nothing when Halted; take the signal at the boundary; run the instruction it
fetched; go on with a wait or with a string (R272). -/
theorem step_cases {s t : State} (h : step s = .next t) :
    (s.status = .halted ∧ t = s) ∨
    (s.status = .running ∧ s.activity = .idle ∧ s.signal = some 0 ∧ t = s.takeSignal) ∨
    (s.status = .running ∧ s.activity = .idle ∧ s.signal ≠ some 0 ∧
      s.nextInstr = some (decode s.fetchWord) ∧
      exec (decode s.fetchWord) (s.setSignal (s.signal.map (· - 1))).afterFetch = .next t) ∨
    (s.status = .running ∧ s.activity = .waitGetc ∧ t = (s.setActivity .idle).getcWait) ∨
    (s.status = .running ∧ s.activity = .waitIn ∧ t = (s.setActivity .idle).inWait) ∨
    (∃ a, s.status = .running ∧ s.activity = .puts a ∧
      t = putsLoop stringWords a (s.setActivity .idle)) ∨
    (∃ a, s.status = .running ∧ s.activity = .putsp a ∧
      t = putspLoop stringWords a (s.setActivity .idle)) := by
  have settle : ∀ {u}, s.nextAction = .settle u → t = u := fun hu => by
    rw [step_of_settle hu] at h
    exact (Host.Outcome.next.inj h).symm
  rcases s.nextAction_cases with c | c | c | c | c | ⟨a, c⟩ | ⟨a, c⟩
  · exact .inl ⟨c.1, settle c.2⟩
  · exact .inr (.inl ⟨c.1, c.2.1, c.2.2.1, settle c.2.2.2⟩)
  · have run : step s = exec (decode (s.setSignal (s.signal.map (· - 1))).fetchWord)
        (s.setSignal (s.signal.map (· - 1))).afterFetch := step_of_run c.2.2.2
    have word : (s.setSignal (s.signal.map (· - 1))).fetchWord = s.fetchWord := by
      simp only [State.fetchWord, State.readWord_setSignal, State.setSignal_pc]
    rw [word] at run
    exact .inr (.inr (.inl ⟨c.1, c.2.1, c.2.2.1, if_pos ⟨c.1, c.2.1, c.2.2.1⟩, run ▸ h⟩))
  · exact .inr (.inr (.inr (.inl ⟨c.1, c.2.1, settle c.2.2⟩)))
  · exact .inr (.inr (.inr (.inr (.inl ⟨c.1, c.2.1, settle c.2.2⟩))))
  · exact .inr (.inr (.inr (.inr (.inr (.inl ⟨a, c.1, c.2.1, settle c.2.2⟩)))))
  · exact .inr (.inr (.inr (.inr (.inr (.inr ⟨a, c.1, c.2.1, settle c.2.2⟩)))))

end Sys2Proof.Machine
end

