-- ==== Sys2Proof/Tests/Slice0.lean ====
section
/-! SUPPORT. Small tests of the model. Expected results are those of spec/95_test_vectors.md (named by its ids)
or computed by hand from the rule named; the last part holds a witness for the hypotheses of each statement. -/

open Sys2Proof Sys2Proof.Machine

namespace Sys2Proof.Tests

/-- A running machine at `pc` with the given COND, registers and memory words. -/
def machine (pc cond : Word) (rs : List (Reg × Word)) (ms : List (Word × Word)) : State :=
  ms.foldl (fun s c => s.writeWord c.1 c.2)
    (rs.foldl (fun s r => s.setReg r.1 r.2) { State.reset with pc := pc, cond := cond })

/-- The outcome is a next state of which `p` holds. -/
def nextIs (o : Host.Outcome State Fault Refusal) (p : State → Bool) : Bool :=
  match o with
  | .next t => p t
  | .fault _ => false
  | .refused _ => false

/-- The host's answers to the coming polls. -/
def polling (ps : List (Option Word)) (s : State) : State := { s with polls := ps }

/-- What the host does at the coming tries of a blocking read. -/
def typing (ks : List (Option Word)) (s : State) : State := s.setKeys ks 0

/-! ### Well-formedness: each check refuses a term -/

theorem test_wf_refuses_jmp_r7 : (Instr.jmp 7#3).wf = false := by decide
theorem test_wf_refuses_routine_vectors :
    (Instr.trap 0x20#8).wf = false ∧ (Instr.trap 0x21#8).wf = false ∧
    (Instr.trap 0x22#8).wf = false ∧ (Instr.trap 0x23#8).wf = false ∧
    (Instr.trap 0x24#8).wf = false ∧ (Instr.trap 0x25#8).wf = false := by decide
theorem test_wf_admits_the_others :
    (Instr.jmp 6#3).wf = true ∧ (Instr.trap 0x1F#8).wf = true ∧ (Instr.trap 0x26#8).wf = true := by
  decide
theorem test_config_refuses_one_keyboard_address :
    ({ kbsrAddr := 0xFE02#16 } : Config).wf = false := by decide
theorem test_config_refuses_other_cond_reset :
    ({ condReset := 0x0001#16 } : Config).wf = false := by decide
theorem test_memory_wf_refuses_disorder :
    Memory.wf [(5, 1#16), (4, 1#16)] = false ∧ Memory.wf [(4, 0#16)] = false ∧
    Memory.wf [(65536, 1#16)] = false := by decide

/-! ### Decoding: words written field by field from R83 -/

theorem test_decode_br : decode (0b0000#4 ++ 0b101#3 ++ 0b100000001#9) = .br 0b101#3 0x101#9 := by decide
theorem test_decode_add :
    decode (0b0001#4 ++ 0b010#3 ++ 0b000#3 ++ 0b0#1 ++ 0b11#2 ++ 0b001#3) = .add 2#3 0#3 1#3 := by decide
theorem test_decode_addi :
    decode (0b0001#4 ++ 0b011#3 ++ 0b110#3 ++ 0b1#1 ++ 0b10001#5) = .addi 3#3 6#3 0x11#5 := by decide
theorem test_decode_ld : decode (0b0010#4 ++ 0b110#3 ++ 0b011111110#9) = .ld 6#3 0x0FE#9 := by decide
theorem test_decode_st : decode (0b0011#4 ++ 0b001#3 ++ 0b111111101#9) = .st 1#3 0x1FD#9 := by decide
theorem test_decode_jsr : decode (0b0100#4 ++ 0b1#1 ++ 0b10000000001#11) = .jsr 0x401#11 := by decide
theorem test_decode_jsrr :
    decode (0b0100#4 ++ 0b0#1 ++ 0b11#2 ++ 0b011#3 ++ 0b101010#6) = .jsrr 3#3 := by decide
theorem test_decode_and :
    decode (0b0101#4 ++ 0b011#3 ++ 0b001#3 ++ 0b0#1 ++ 0b00#2 ++ 0b010#3) = .and 3#3 1#3 2#3 := by decide
theorem test_decode_andi :
    decode (0b0101#4 ++ 0b001#3 ++ 0b100#3 ++ 0b1#1 ++ 0b10000#5) = .andi 1#3 4#3 0x10#5 := by decide
theorem test_decode_ldr :
    decode (0b0110#4 ++ 0b010#3 ++ 0b011#3 ++ 0b111111#6) = .ldr 2#3 3#3 0x3F#6 := by decide
theorem test_decode_str :
    decode (0b0111#4 ++ 0b100#3 ++ 0b101#3 ++ 0b011111#6) = .str 4#3 5#3 0x1F#6 := by decide
theorem test_decode_rti : decode (0b1000#4 ++ 0b101010101010#12) = .rti := by decide
theorem test_decode_not : decode (0b1001#4 ++ 0b100#3 ++ 0b101#3 ++ 0b111111#6) = .not 4#3 5#3 := by decide
theorem test_decode_ldi : decode (0b1010#4 ++ 0b001#3 ++ 0b000000101#9) = .ldi 1#3 5#9 := by decide
theorem test_decode_sti : decode (0b1011#4 ++ 0b010#3 ++ 0b000000001#9) = .sti 2#3 1#9 := by decide
theorem test_decode_jmp :
    decode (0b1100#4 ++ 0b111#3 ++ 0b010#3 ++ 0b111111#6) = .jmp 2#3 := by decide
theorem test_decode_ret : decode (0b1100#4 ++ 0b000#3 ++ 0b111#3 ++ 0b000000#6) = .ret := by decide
theorem test_decode_res : decode (0b1101#4 ++ 0b000100100011#12) = .res := by decide
theorem test_decode_lea : decode (0b1110#4 ++ 0b000#3 ++ 0b111111111#9) = .lea 0#3 0x1FF#9 := by decide
theorem test_decode_trap : decode (0b1111#4 ++ 0b0101#4 ++ 0b00011111#8) = .trap 0x1F#8 := by decide
theorem test_decode_getc : decode (0b1111#4 ++ 0b0000#4 ++ 0b00100000#8) = .getc := by decide
theorem test_decode_out : decode (0b1111#4 ++ 0b0000#4 ++ 0b00100001#8) = .out := by decide
theorem test_decode_puts : decode (0b1111#4 ++ 0b0000#4 ++ 0b00100010#8) = .puts := by decide
theorem test_decode_in : decode (0b1111#4 ++ 0b0000#4 ++ 0b00100011#8) = .inp := by decide
theorem test_decode_putsp : decode (0b1111#4 ++ 0b0000#4 ++ 0b00100100#8) = .putsp := by decide
theorem test_decode_halt : decode (0b1111#4 ++ 0b0001#4 ++ 0b00100101#8) = .halt := by decide

/-- R92: the words the spec writes for RET and for NOT with its canonical low bits. -/
theorem test_encode_canonical_words :
    encode .ret = 0xC1C0#16 ∧ encode (.not 4#3 5#3) = 0x997F#16 ∧ encode .halt = 0xF025#16 := by decide

theorem test_decode_words_gives_the_rest :
    decodeWords [0x1401#16, 0xF025#16] = .ok (.add 2#3 0#3 1#3, [0xF025#16]) ∧
    decodeWords [] = .error .noWord := ⟨rfl, rfl⟩

/-- The table's numbering: 16 bits, bit 0 least significant; no instruction is longer. -/
theorem test_decode_table_word :
    decodeTableWord 16 0x1401 = some (.add 2#3 0#3 1#3) ∧ decodeTableWord 17 0x1401 = none := by decide

/-- No two rows of the opcode table select one word; RET and the six routines are left out, whose rows lie inside
those of JMP and TRAP (R90, R93). -/
theorem test_rows_do_not_overlap :
    ([.br 0#3 0#9, .add 0#3 0#3 0#3, .addi 0#3 0#3 0#5, .ld 0#3 0#9, .st 0#3 0#9, .jsr 0#11, .jsrr 0#3,
      .and 0#3 0#3 0#3, .andi 0#3 0#3 0#5, .ldr 0#3 0#3 0#6, .str 0#3 0#3 0#6, .rti, .not 0#3 0#3,
      .ldi 0#3 0#9, .sti 0#3 0#9, .jmp 0#3, .res, .lea 0#3 0#9, .trap 0#8] : List Instr).Pairwise
      fun i j => i.row.mask &&& j.row.mask &&& (i.row.bits ^^^ j.row.bits) ≠ 0#16 := by decide

/-! ### Sign extension and flags (95 section 2.1) -/

theorem test_sext_of_source :
    sext 0x1F#5 = 0xFFFF#16 ∧ sext 0x0F#5 = 0x000F#16 ∧ sext 0x10#5 = 0xFFF0#16 ∧
    sext 0x20#6 = 0xFFE0#16 ∧ sext 0x100#9 = 0xFF00#16 ∧ sext 0x400#11 = 0xFC00#16 ∧
    sext 0x3FF#11 = 0x03FF#16 := by decide
theorem test_setcc_table :
    condOf 0x0000#16 = 0x0002#16 ∧ condOf 0x0001#16 = 0x0001#16 ∧ condOf 0x7FFF#16 = 0x0001#16 ∧
    condOf 0x8000#16 = 0x0004#16 ∧ condOf 0xFFFF#16 = 0x0004#16 := by decide

/-! ### Operate instructions (95 section 2.2) -/

/-- "ADD reg signed overflow". -/
theorem test_add_signed_overflow :
    nextIs (step (machine 0x3000#16 2#16 [(0#3, 0x7FFF#16), (1#3, 1#16)] [(0x3000#16, 0x1401#16)]))
      (fun t => t.reg 2#3 = 0x8000#16 && t.cond = condNegative && t.pc = 0x3001#16) := by decide
/-- "ADD reg same regs". -/
theorem test_add_same_registers :
    nextIs (step (machine 0x3000#16 2#16 [(1#3, 0x4000#16)] [(0x3000#16, 0x1249#16)]))
      (fun t => t.reg 1#3 = 0x8000#16 && t.cond = condNegative) := by decide
/-- "ADD imm -1 from 0". -/
theorem test_addi_minus_one :
    nextIs (step (machine 0x3000#16 2#16 [] [(0x3000#16, 0x127F#16)]))
      (fun t => t.reg 1#3 = 0xFFFF#16 && t.cond = condNegative) := by decide
/-- "ADD imm -16". -/
theorem test_addi_minus_sixteen :
    nextIs (step (machine 0x3000#16 1#16 [(1#3, 0x0010#16)] [(0x3000#16, 0x1270#16)]))
      (fun t => t.reg 1#3 = 0#16 && t.cond = condZero) := by decide
/-- "AND reg". -/
theorem test_and :
    nextIs (step (machine 0x3000#16 2#16 [(1#3, 0xFF0F#16), (2#3, 0x0FF0#16)] [(0x3000#16, 0x5642#16)]))
      (fun t => t.reg 3#3 = 0x0F00#16 && t.cond = condPositive) := by decide
/-- "AND imm -16". -/
theorem test_andi_negative :
    nextIs (step (machine 0x3000#16 2#16 [(1#3, 0xABCD#16)] [(0x3000#16, 0x5270#16)]))
      (fun t => t.reg 1#3 = 0xABC0#16 && t.cond = condNegative) := by decide
/-- "AND imm +15". -/
theorem test_andi_positive :
    nextIs (step (machine 0x3000#16 2#16 [(1#3, 0xFFFF#16)] [(0x3000#16, 0x526F#16)]))
      (fun t => t.reg 1#3 = 0x000F#16 && t.cond = condPositive) := by decide
/-- "NOT". -/
theorem test_not :
    nextIs (step (machine 0x3000#16 2#16 [(5#3, 0x00FF#16)] [(0x3000#16, 0x997F#16)]))
      (fun t => t.reg 4#3 = 0xFF00#16 && t.cond = condNegative) := by decide

/-! ### Memory access (95 section 2.3) -/

/-- "LD wrap at FFFF". -/
theorem test_ld_wraps :
    nextIs (step (machine 0xFFFF#16 2#16 [] [(0xFFFF#16, 0x21FF#16)]))
      (fun t => t.reg 0#3 = 0x21FF#16 && t.cond = condPositive && t.pc = 0#16) := by decide
/-- "LD from KBSR, key". -/
theorem test_ld_polls :
    nextIs (step (polling [some 0x61#16] (machine 0xFDFF#16 2#16 [] [(0xFDFF#16, 0x2000#16)])))
      (fun t => t.reg 0#3 = 0x8000#16 && t.mem.read 0xFE00#16 = 0x8000#16 &&
        t.mem.read 0xFE02#16 = 0x61#16 && t.cond = condNegative && t.polls = []) := by decide
/-- "ST". -/
theorem test_st :
    nextIs (step (machine 0x3000#16 2#16 [(1#3, 0xBEEF#16)] [(0x3000#16, 0x33FD#16)]))
      (fun t => t.mem.read 0x2FFE#16 = 0xBEEF#16 && t.cond = condZero) := by decide
/-- "ST to KBSR (plain)". -/
theorem test_st_to_kbsr_is_plain :
    nextIs (step (polling [some 1#16] (machine 0xFDFF#16 2#16 [(3#3, 0x1234#16)] [(0xFDFF#16, 0x3600#16)])))
      (fun t => t.mem.read 0xFE00#16 = 0x1234#16 && t.polls = [some 1#16]) := by decide
/-- "LDR DR=BaseR". -/
theorem test_ldr_into_its_base :
    nextIs (step (machine 0x3000#16 2#16 [(1#3, 0x4000#16)] [(0x3000#16, 0x6240#16), (0x4000#16, 5#16)]))
      (fun t => t.reg 1#3 = 5#16 && t.cond = condPositive) := by decide
/-- "LDR -1". -/
theorem test_ldr_negative_offset :
    nextIs (step (machine 0x3000#16 2#16 [(3#3, 0x4001#16)] [(0x3000#16, 0x64FF#16), (0x4000#16, 0x7FFF#16)]))
      (fun t => t.reg 2#3 = 0x7FFF#16 && t.cond = condPositive) := by decide
/-- "STR +31". -/
theorem test_str :
    nextIs (step (machine 0x3000#16 2#16 [(4#3, 0xAA#16), (5#3, 0x4000#16)] [(0x3000#16, 0x795F#16)]))
      (fun t => t.mem.read 0x401F#16 = 0xAA#16) := by decide
/-- "LDI". -/
theorem test_ldi :
    nextIs (step (machine 0x3000#16 1#16 [(1#3, 7#16)] [(0x3000#16, 0xA205#16), (0x3006#16, 0x4000#16)]))
      (fun t => t.reg 1#3 = 0#16 && t.cond = condZero) := by decide
/-- "LDI via KBSR pointer, no key". -/
theorem test_ldi_polls_through_its_pointer :
    nextIs (step (polling [none] (machine 0x3000#16 2#16 []
        [(0x3000#16, 0xA205#16), (0x3006#16, 0xFE00#16), (0xFE00#16, 0x1234#16), (0xFE02#16, 0x61#16)])))
      (fun t => t.reg 1#3 = 0#16 && t.mem.read 0xFE00#16 = 0#16 && t.mem.read 0xFE02#16 = 0x61#16) := by
  decide
/-- "STI". -/
theorem test_sti :
    nextIs (step (machine 0x3000#16 2#16 [(2#3, 0xFF#16)] [(0x3000#16, 0xB401#16), (0x3002#16, 0x5000#16)]))
      (fun t => t.mem.read 0x5000#16 = 0xFF#16 && t.mem.read 0x3002#16 = 0x5000#16) := by decide
/-- "LEA zero result". -/
theorem test_lea_zero :
    nextIs (step (machine 0xFFFF#16 1#16 [(0#3, 9#16)] [(0xFFFF#16, 0xE000#16)]))
      (fun t => t.reg 0#3 = 0#16 && t.cond = condZero) := by decide
/-- "LEA negative". -/
theorem test_lea_negative :
    nextIs (step (machine 0x8000#16 2#16 [] [(0x8000#16, 0xE0FF#16)]))
      (fun t => t.reg 0#3 = 0x8100#16 && t.cond = condNegative) := by decide

/-! ### Control transfer (95 sections 2.4 and 2.5) -/

/-- "BR nzp=011" under Z is taken. -/
theorem test_br_taken :
    nextIs (step (machine 0x3000#16 condZero [] [(0x3000#16, 0x0605#16)]))
      (fun t => t.pc = 0x3006#16 && t.cond = condZero) := by decide
/-- "BR nzp=101" under Z is not taken. -/
theorem test_br_not_taken :
    nextIs (step (machine 0x3000#16 condZero [] [(0x3000#16, 0x0A05#16)])) (fun t => t.pc = 0x3001#16) := by
  decide
/-- "JSR -1024". -/
theorem test_jsr :
    nextIs (step (machine 0x3000#16 2#16 [] [(0x3000#16, 0x4C00#16)]))
      (fun t => t.reg 7#3 = 0x3001#16 && t.pc = 0x2C01#16) := by decide
/-- "JSRR ignored bits set". -/
theorem test_jsrr :
    nextIs (step (machine 0x3000#16 2#16 [(0#3, 0x6000#16)] [(0x3000#16, 0x463F#16)]))
      (fun t => t.reg 7#3 = 0x3001#16 && t.pc = 0x6000#16) := by decide
/-- "JSRR R7 (no jump)". -/
theorem test_jsrr_r7 :
    nextIs (step (machine 0x3000#16 2#16 [(7#3, 0x5000#16)] [(0x3000#16, 0x41C0#16)]))
      (fun t => t.reg 7#3 = 0x3001#16 && t.pc = 0x3001#16) := by decide
/-- "JMP R2". -/
theorem test_jmp :
    nextIs (step (machine 0x3000#16 2#16 [(2#3, 0x3100#16)] [(0x3000#16, 0xC080#16)]))
      (fun t => t.pc = 0x3100#16 && t.reg 7#3 = 0#16) := by decide
/-- "RET". -/
theorem test_ret :
    nextIs (step (machine 0x3000#16 2#16 [(7#3, 0x3456#16)] [(0x3000#16, 0xC1C0#16)]))
      (fun t => t.pc = 0x3456#16 && t.reg 7#3 = 0x3456#16) := by decide

/-! ### Reserved opcodes (95 section 2.6) -/

/-- "RTI other bits". -/
theorem test_rti :
    nextIs (step (machine 0x3000#16 4#16 [(0#3, 1#16)] [(0x3000#16, 0x8FFF#16)]))
      (fun t => t = machine 0x3001#16 4#16 [(0#3, 1#16)] [(0x3000#16, 0x8FFF#16)]) := by decide
/-- "RES". -/
theorem test_res :
    nextIs (step (machine 0x3000#16 2#16 [] [(0x3000#16, 0xD123#16)]))
      (fun t => t = machine 0x3001#16 2#16 [] [(0x3000#16, 0xD123#16)]) := by decide

/-! ### TRAP routines (95 section 2.7) -/

/-- "GETC". -/
theorem test_getc :
    nextIs (step (typing [some 0x61#16] (machine 0x3000#16 4#16 [(0#3, 0x1111#16)] [(0x3000#16, 0xF020#16)])))
      (fun t => t.reg 0#3 = 0x61#16 && t.cond = condNegative && t.output = [] && t.keys = [] &&
        t.activity = .idle) := by decide
/-- "OUT 16-bit". -/
theorem test_out :
    nextIs (step (machine 0x3000#16 2#16 [(0#3, 0xF600#16)] [(0x3000#16, 0xF021#16)]))
      (fun t => t.output = [.out 0xF600#16] && t.reg 0#3 = 0xF600#16) := by decide
/-- "PUTS wrap". -/
theorem test_puts_wraps :
    nextIs (step (machine 0x3000#16 2#16 [(0#3, 0xFFFF#16)]
        [(0x3000#16, 0xF022#16), (0xFFFF#16, 0x41#16), (0x0000#16, 0x42#16)]))
      (fun t => t.output = [.out 0x41#16, .out 0x42#16] && t.pc = 0x3001#16) := by decide
/-- "PUTS through KBSR, key". -/
theorem test_puts_polls :
    nextIs (step (polling [some 0x7A#16] (machine 0x3000#16 2#16 [(0#3, 0xFDFF#16)]
        [(0x3000#16, 0xF022#16), (0xFDFF#16, 0x41#16)])))
      (fun t => t.output = [.out 0x41#16, .out 0x8000#16] && t.mem.read 0xFE02#16 = 0x7A#16) := by decide
/-- "IN". -/
theorem test_in :
    nextIs (step (typing [some 0x37#16] (machine 0x3000#16 2#16 [] [(0x3000#16, 0xF023#16)])))
      (fun t => t.output = [.prompt, .out 0x37#16] && t.reg 0#3 = 0x37#16 && t.cond = condZero) := by
  decide
/-- R31: with no key IN waits after its prompt. -/
theorem test_in_waits :
    nextIs (step (typing [none] (machine 0x3000#16 2#16 [] [(0x3000#16, 0xF023#16)])))
      (fun t => t.output = [.prompt] && t.activity = .waitIn && t.reg 0#3 = 0#16) := by decide
/-- "PUTSP Hi!". -/
theorem test_putsp :
    nextIs (step (machine 0x3000#16 2#16 [(0#3, 0x4000#16)]
        [(0x3000#16, 0xF024#16), (0x4000#16, 0x6948#16), (0x4001#16, 0x0021#16), (0x4002#16, 0x4141#16)]))
      (fun t => t.output = [.out 0x48#16, .out 0x69#16, .out 0x21#16]) := by decide
/-- "PUTSP low zero". -/
theorem test_putsp_low_zero :
    nextIs (step (machine 0x3000#16 2#16 [(0#3, 0x4000#16)] [(0x3000#16, 0xF024#16), (0x4000#16, 0x4100#16)]))
      (fun t => t.output = []) := by decide
/-- "HALT". -/
theorem test_halt :
    nextIs (step (machine 0x3003#16 2#16 [(1#3, 0x1234#16)] [(0x3003#16, 0xF025#16)]))
      (fun t => t.output = [.haltMsg] && t.status = .halted && t.pc = 0x3004#16 &&
        t.reg 1#3 = 0x1234#16) := by decide
/-- "unknown 0xFF". -/
theorem test_trap_unknown :
    nextIs (step (machine 0x3000#16 2#16 [] [(0x3000#16, 0xF0FF#16)]))
      (fun t => t = machine 0x3001#16 2#16 [] [(0x3000#16, 0xF0FF#16)]) := by decide
/-- R180 with the parameter TRAP_LINKS_R7 set. -/
theorem test_trap_links_r7 :
    nextIs (step { machine 0x3000#16 2#16 [] [(0x3000#16, 0xF026#16)] with config := { trapLinksR7 := true } })
      (fun t => t.reg 7#3 = 0x3001#16) := by decide

/-! ### Fetch, reset and the image (95 section 2.8) -/

/-- "fetch from KBSR, key". -/
theorem test_fetch_polls :
    nextIs (step (polling [some 0x41#16] (machine 0xFE00#16 2#16 [] [])))
      (fun t => t.pc = 0xFE01#16 && t.mem.read 0xFE00#16 = 0x8000#16 && t.mem.read 0xFE02#16 = 0x41#16 &&
        t.cond = condZero) := by decide
/-- "fetch from KBDR". -/
theorem test_fetch_from_kbdr :
    nextIs (step (machine 0xFE02#16 2#16 [] [(0xFE02#16, 0x1021#16)]))
      (fun t => t.reg 0#3 = 1#16 && t.pc = 0xFE03#16) := by decide
/-- "reset". -/
theorem test_reset :
    State.reset.pc = 0x3000#16 ∧ State.reset.cond = 0x0002#16 ∧ State.reset.reg 7#3 = 0#16 ∧
    State.reset.status = .running ∧ State.reset.output = [] := by decide
/-- "image S5": the word at the origin runs first. -/
theorem test_image_runs :
    nextIs (match State.boot {} (some [0x30#8, 0x00#8, 0x12#8, 0x34#8]) with
      | .ok s => step s
      | .error _ => step State.reset)
      (fun t => t.reg 1#3 = 0xFFF4#16 && t.cond = condNegative && t.pc = 0x3001#16) := by decide
/-- "odd image", "1-byte image", "2-byte image". -/
theorem test_image_failures :
    readImage (some [0x30#8, 0x00#8, 0x12#8]) = .error .oddLength ∧
    readImage (some [0x30#8]) = .error .tooShort ∧
    readImage (some [0x30#8, 0x00#8]) = .ok (0x3000#16, []) := ⟨rfl, rfl, rfl⟩
/-- The host's way to run a word: R110's example word from the state after reset. -/
theorem test_with_fetch_word :
    nextIs (step (State.reset.withFetchWord 16 0x1021))
      (fun t => t.reg 0#3 = 1#16 && t.pc = 0x3001#16) := by decide

/-! ### The interrupt signal (95 section 2.9) -/

/-- I1: before the first step. -/
theorem test_signal_at_boundary :
    nextIs (step (State.reset.setSignal (some 0)))
      (fun t => t.output = [.haltMsg] && t.status = .halted && t.pc = 0x3000#16) := by decide
/-- I2: instead of a key, the second point of the step (the first is the boundary). -/
theorem test_signal_in_getc :
    nextIs (step (typing [some 0x61#16] ((machine 0x3000#16 2#16 [(0#3, 7#16)] [(0x3000#16, 0xF020#16)]).setSignal
        (some 1))))
      (fun t => t.output = [.haltMsg] && t.status = .halted && t.reg 0#3 = 7#16 && t.pc = 0x3001#16) := by
  decide
/-- I3: after the prompt, before the key. -/
theorem test_signal_in_in :
    nextIs (step (typing [some 0x61#16] ((machine 0x3000#16 2#16 [] [(0x3000#16, 0xF023#16)]).setSignal
        (some 2))))
      (fun t => t.output = [.prompt, .haltMsg] && t.status = .halted && t.reg 0#3 = 0#16) := by decide
/-- I4: between the two characters of "Hi". -/
theorem test_signal_in_puts :
    nextIs (step ((machine 0x3000#16 2#16 [(0#3, 0x4000#16)]
        [(0x3000#16, 0xF022#16), (0x4000#16, 0x48#16), (0x4001#16, 0x69#16)]).setSignal (some 3)))
      (fun t => t.output = [.out 0x48#16, .haltMsg] && t.status = .halted) := by decide

/-! ### Witnesses: for each statement with hypotheses, a state and operands that meet them -/

/-- A machine at 0x3000 with the instruction word `w` there. -/
def running (w : Word) : State := machine 0x3000#16 condZero [] [(0x3000#16, w)]

theorem test_witness_decode_of_encode :
    (Instr.jmp 6#3).wf = true ∧ (Instr.trap 0x1F#8).wf = true ∧ (Instr.trap 0x26#8).wf = true ∧
    (Instr.add 7#3 7#3 7#3).wf = true := by decide
theorem test_witness_ignored_bits :
    0x1401#16 &&& (decode 0x1401#16).readMask = 0x1419#16 &&& (decode 0x1401#16).readMask := by decide
theorem test_witness_step_runs :
    (running 0x1401#16).status = .running ∧ (running 0x1401#16).activity = .idle ∧
    ((running 0x1401#16).setSignal (some 1)).signal ≠ some 0 ∧
    (running 0x1401#16).pc ≠ (running 0x1401#16).config.kbsrAddr := by decide
theorem test_witness_step_runs_at_kbsr :
    (machine 0xFE00#16 2#16 [] []).status = .running ∧ (machine 0xFE00#16 2#16 [] []).activity = .idle ∧
    (machine 0xFE00#16 2#16 [] []).signal ≠ some 0 ∧
    (machine 0xFE00#16 2#16 [] []).pc = (machine 0xFE00#16 2#16 [] []).config.kbsrAddr := by decide
theorem test_witness_fetch_at_kbsr :
    let s := polling [some 0x41#16] (machine 0xFE00#16 2#16 [] [])
    s.config.wf = true ∧ s.status = .running ∧ s.activity = .idle ∧ s.signal = none ∧
    s.pc = s.config.kbsrAddr := by decide
theorem test_witness_read_port :
    let s := polling [none, some 1#16] State.reset
    s.config.wf = true ∧ s.polls = none :: [some 1#16] ∧ s.config.kbdrAddr ≠ s.config.kbsrAddr ∧
    0xFFFF#16 ≠ s.config.kbsrAddr := by decide
theorem test_witness_read_port_key : (polling [some 1#16] State.reset).pollAnswer = some 1#16 := by decide
theorem test_witness_canonical_memory :
    Memory.wf [] = true ∧ Memory.wf [(0, 1#16), (65535, 2#16)] = true ∧
    ∀ a : Word, Memory.read [(0, 1#16), (65535, 2#16)] a = Memory.read [(0, 1#16), (65535, 2#16)] a :=
  ⟨rfl, rfl, fun _ => rfl⟩
theorem test_witness_ld_plain :
    (running 0x2002#16).eaPc 2#9 ≠ (running 0x2002#16).config.kbsrAddr := by decide
theorem test_witness_ld_at_kbsr :
    let s := machine 0xFE00#16 2#16 [] []
    s.config.wf = true ∧ s.eaPc 0#9 = s.config.kbsrAddr := by decide
theorem test_witness_ldr :
    let s := machine 0x3001#16 2#16 [(1#3, 0xFE00#16)] []
    s.config.wf = true ∧ s.eaBase 1#3 0#6 = s.config.kbsrAddr ∧
    s.eaBase 1#3 1#6 ≠ s.config.kbsrAddr := by decide
theorem test_witness_ldi_plain :
    let s := machine 0x3001#16 2#16 [] [(0x3006#16, 0x4000#16)]
    s.eaPc 5#9 ≠ s.config.kbsrAddr ∧ s.mem.read (s.eaPc 5#9) ≠ s.config.kbsrAddr := by decide
theorem test_witness_indirection_pointer_holds_kbsr :
    let s := machine 0x3001#16 2#16 [] [(0x3006#16, 0xFE00#16)]
    s.config.wf = true ∧ s.eaPc 5#9 ≠ s.config.kbsrAddr ∧
    s.mem.read (s.eaPc 5#9) = s.config.kbsrAddr := by decide
theorem test_witness_indirection_pointer_at_kbsr :
    let s := machine 0xFDFF#16 2#16 [] []
    s.config.wf = true ∧ s.eaPc 1#9 = s.config.kbsrAddr ∧ s.config.kbsrAddr ≠ 0x8000#16 ∧
    s.config.kbsrAddr ≠ 0x0000#16 := by decide
theorem test_witness_sti_plain :
    (machine 0x3001#16 2#16 [] []).eaPc 1#9 ≠ (machine 0x3001#16 2#16 [] []).config.kbsrAddr := by decide
theorem test_witness_br :
    BitVec.setWidth 16 (0b010#3) &&& (running 0#16).cond ≠ 0#16 ∧
    BitVec.setWidth 16 (0b101#3) &&& (running 0#16).cond = 0#16 := by decide
theorem test_witness_br_tests_each_flag :
    ∃ s t : State, exec (.br (BitVec.ofBool false ++ BitVec.ofBool true ++ BitVec.ofBool false) 5#9) s = .next t ∧
      s.cond = condZero := ⟨running 0#16, _, rfl, rfl⟩
theorem test_witness_br_tests_no_bit :
    ∃ s t : State, exec (.br (BitVec.ofBool false ++ BitVec.ofBool false ++ BitVec.ofBool false) 5#9) s = .next t ∧
      s.cond = condNegative := ⟨machine 0#16 condNegative [] [], _, rfl, rfl⟩
theorem test_witness_br_positive :
    ∃ s t : State, exec (.br (BitVec.ofBool true ++ BitVec.ofBool true ++ BitVec.ofBool true) 5#9) s = .next t ∧
      s.cond = condPositive := ⟨machine 0#16 condPositive [] [], _, rfl, rfl⟩
theorem test_witness_jsrr : (0#3 : Reg) ≠ 7#3 ∧ (6#3 : Reg) ≠ 7#3 := by decide
theorem test_witness_reserved :
    let s := running (0x8000#16 ||| place 0xFFF#12 0)
    s.status = .running ∧ s.activity = .idle ∧ s.signal = none ∧ s.pc ≠ s.config.kbsrAddr ∧
    (s.mem.read s.pc = 0x8000#16 ||| place 0xFFF#12 0 ∨ s.mem.read s.pc = 0xD000#16 ||| place 0xFFF#12 0) := by
  decide
theorem test_witness_getc :
    (typing [some 0x61#16] State.reset).keyAnswer = some 0x61#16 ∧
    ((typing [some 0x61#16] State.reset).setSignal (some 1)).signal ≠ some 0 := by decide
theorem test_witness_getc_sets_flags :
    let s := { typing [some 0#16] State.reset with config := { trapInSetsFlags := true } }
    s.keyAnswer = some 0#16 ∧ s.signal ≠ some 0 ∧ s.config.trapInSetsFlags = true := by decide
theorem test_witness_out : State.reset.signal ≠ some 0 := by decide

/-- The string "Hi" at 0xFFFF, one character a word. -/
def hiState : State :=
  machine 0x3001#16 2#16 [(0#3, 0xFFFF#16)] [(0xFFFF#16, 0x48#16), (0x0000#16, 0x69#16)]
theorem test_witness_puts :
    hiState.signal = none ∧ [0x48#16, 0x69#16].length < stringWords ∧
    (∀ k, k ≤ [0x48#16, 0x69#16].length → hiState.reg 0#3 + BitVec.ofNat 16 k ≠ hiState.config.kbsrAddr) ∧
    (∀ k (h : k < [0x48#16, 0x69#16].length), [0x48#16, 0x69#16][k] ≠ 0#16 ∧
      hiState.mem.read (hiState.reg 0#3 + BitVec.ofNat 16 k) = [0x48#16, 0x69#16][k]) ∧
    hiState.mem.read (hiState.reg 0#3 + BitVec.ofNat 16 [0x48#16, 0x69#16].length) = 0#16 := by decide

/-- A string of one word, `w`, right before KBSR_ADDR, where the next poll answers `ans`. -/
def kbsrState (ans : Option Word) (w : Word) : State :=
  polling [ans] (machine 0x3001#16 2#16 [(0#3, 0xFDFF#16)] [(0xFDFF#16, w), (0xFE01#16, 0x42#16)])
theorem test_witness_strings_at_kbsr :
    let s := kbsrState none 0x41#16
    s.config.wf = true ∧ s.signal = none ∧ [0x41#16].length < stringWords ∧
    TextAt s.mem (s.reg 0#3) s.config.kbsrAddr [0x41#16] ∧
    s.reg 0#3 + BitVec.ofNat 16 [0x41#16].length = s.config.kbsrAddr ∧ s.pollAnswer = none := by
  unfold TextAt; decide
/-- The string starts at KBSR_ADDR: no word comes before it. -/
theorem test_witness_strings_from_kbsr :
    let s := (kbsrState none 0x41#16).setReg 0#3 0xFE00#16
    TextAt s.mem (s.reg 0#3) s.config.kbsrAddr [] ∧ PackedAt s.mem (s.reg 0#3) s.config.kbsrAddr [] ∧
    s.reg 0#3 + BitVec.ofNat 16 ([] : List Word).length = s.config.kbsrAddr := by
  unfold TextAt PackedAt; decide
/-- With a key the string goes on at KBSR_ADDR + 1, through the key's code in KBDR, to the zero word. -/
theorem test_witness_strings_beyond_kbsr :
    let s := kbsrState (some 0x7A#16) 0x41#16
    let u := s.afterRead s.config.kbsrAddr
    s.config.wf = true ∧ s.signal = none ∧ TextAt s.mem (s.reg 0#3) s.config.kbsrAddr [0x41#16] ∧
    s.reg 0#3 + BitVec.ofNat 16 [0x41#16].length = s.config.kbsrAddr ∧ s.pollAnswer = some 0x7A#16 ∧
    [0x41#16].length + 1 + [0x42#16, 0x7A#16].length < stringWords ∧
    TextAt u.mem (s.config.kbsrAddr + 1#16) s.config.kbsrAddr [0x42#16, 0x7A#16] ∧
    u.mem.read (s.config.kbsrAddr + 1#16 + BitVec.ofNat 16 [0x42#16, 0x7A#16].length) = 0#16 := by
  unfold TextAt; decide
theorem test_witness_packed_strings_at_kbsr :
    let s := kbsrState (some 0x7A#16) 0x6948#16
    s.config.wf = true ∧ s.signal = none ∧ [0x6948#16].length < stringWords ∧
    PackedAt s.mem (s.reg 0#3) s.config.kbsrAddr [0x6948#16] ∧
    s.reg 0#3 + BitVec.ofNat 16 [0x6948#16].length = s.config.kbsrAddr := by
  unfold PackedAt; decide
theorem test_witness_in :
    (typing [some 0x37#16] State.reset).keyAnswer = some 0x37#16 ∧
    (typing [some 0x37#16] State.reset).signal = none := by decide
theorem test_witness_in_sets_flags :
    let s := { typing [some 0x8000#16] State.reset with config := { trapInSetsFlags := true } }
    s.keyAnswer = some 0x8000#16 ∧ s.signal = none ∧ s.config.trapInSetsFlags = true := by decide

/-- "Hi!" at 0x4000, two characters a word. -/
def packedState : State :=
  machine 0x3001#16 2#16 [(0#3, 0x4000#16)] [(0x4000#16, 0x6948#16), (0x4001#16, 0x0021#16)]
theorem test_witness_putsp :
    packedState.signal = none ∧ [0x6948#16].length < stringWords ∧
    (∀ k, k ≤ [0x6948#16].length → packedState.reg 0#3 + BitVec.ofNat 16 k ≠ packedState.config.kbsrAddr) ∧
    (∀ k (h : k < [0x6948#16].length), [0x6948#16][k] &&& 0x00FF#16 ≠ 0#16 ∧ [0x6948#16][k] >>> 8 ≠ 0#16 ∧
      packedState.mem.read (packedState.reg 0#3 + BitVec.ofNat 16 k) = [0x6948#16][k]) ∧
    packedState.mem.read (packedState.reg 0#3 + BitVec.ofNat 16 [0x6948#16].length) = 0x0021#16 ∧
    (0x0021#16 &&& 0x00FF#16 = 0#16 ∨ 0x0021#16 >>> 8 = 0#16) := by decide
theorem test_witness_unknown_trap :
    (0x1F#8 < 0x20#8 ∨ 0x25#8 < 0x1F#8) ∧ (0x26#8 < 0x20#8 ∨ 0x25#8 < 0x26#8) := by decide
theorem test_witness_trap_routines :
    ∃ s t : State, exec .putsp s = .next t ∧ s.config.trapInSetsFlags = false :=
  ⟨packedState, _, rfl, rfl⟩
theorem test_witness_no_key :
    (typing [none] State.reset).keyAnswer = none ∧ (typing [none] State.reset).signal = none := by decide
theorem test_witness_wait_goes_on :
    let s := (typing [none] State.reset).setActivity .waitGetc
    s.status = .running ∧ s.signal = none ∧ s.activity = .waitGetc ∧ s.keyAnswer = none := by decide
theorem test_witness_key_ends_wait :
    let s := (typing [some 0x37#16] State.reset).setActivity .waitIn
    s.status = .running ∧ s.signal = none ∧ s.activity = .waitIn ∧ s.keyAnswer = some 0x37#16 := by decide
theorem test_witness_key_ends_wait_sets_flags :
    let s := { (typing [some 0x8000#16] State.reset).setActivity .waitGetc with
      config := { trapInSetsFlags := true } }
    s.status = .running ∧ s.signal = none ∧ s.activity = .waitGetc ∧ s.keyAnswer = some 0x8000#16 ∧
    s.config.trapInSetsFlags = true := by decide
theorem test_witness_signal_ends_wait :
    let s := (State.reset.setActivity .waitIn).setSignal (some 0)
    s.status = .running ∧ s.signal = some 0 ∧ s.activity = .waitIn := by decide
theorem test_witness_signal_ends_first_try :
    ((typing [some 0x61#16] State.reset).setSignal (some 0)).signal = some 0 ∧
    ((typing [some 0x61#16] State.reset).setSignal (some 1)).signal = some 1 := by decide
theorem test_witness_signal_at_boundary :
    let s := State.reset.setSignal (some 0)
    s.status = .running ∧ s.activity = .idle ∧ s.signal = some 0 := by decide
theorem test_witness_signal_cuts_output :
    ∃ s t u : State, exec .puts (s.setSignal none) = .next u ∧ exec .puts s = .next t ∧ s.signal = some 1 :=
  ⟨hiState.setSignal (some 1), _, _, rfl, rfl, rfl⟩
theorem test_witness_signal_cuts_getc :
    ∃ s u : State, exec .getc (s.setSignal none) = .next u ∧ s.signal = some 0 :=
  ⟨State.reset.setSignal (some 0), _, rfl, rfl⟩
/-- A proper prefix of the events of PUTS: vector I4's Out(0048). -/
theorem test_witness_signal_leaves_prefix :
    nextIs (exec .puts (hiState.setSignal none)) (fun u =>
      (hiState.output ++ [Event.out 0x48#16]).isPrefixOf u.output &&
      hiState.output ++ [Event.out 0x48#16] != u.output) := by decide
/-- All events of IN. -/
theorem test_witness_signal_after_echo :
    let s := typing [some 0x37#16] State.reset
    nextIs (exec .inp (s.setSignal none)) (fun u =>
      (s.output ++ [Event.prompt, Event.out 0x37#16]).isPrefixOf u.output) := by decide
theorem test_witness_halted : (State.reset.terminate).status = .halted := by decide
theorem test_witness_long_strings :
    hiState.activity = .idle ∧ (putsLoop 1 0xFFFF#16 hiState).activity = .puts 0x0000#16 ∧
    packedState.activity = .idle ∧ (putspLoop 1 0x4000#16 packedState).activity = .putsp 0x4001#16 := by
  decide
theorem test_witness_strings_go_on :
    (hiState.setActivity (.puts 0xFFFF#16)).status = .running ∧
    (hiState.setActivity (.puts 0xFFFF#16)).activity = .puts 0xFFFF#16 ∧
    (packedState.setActivity (.putsp 0x4000#16)).status = .running ∧
    (packedState.setActivity (.putsp 0x4000#16)).activity = .putsp 0x4000#16 := by decide
theorem test_witness_invariant :
    (running 0x1401#16).Inv ∧ nextIs (step (running 0x1401#16)) (fun _ => true) :=
  ⟨⟨by decide, by decide, Or.inl (Or.inl (by decide)), by decide⟩, by decide⟩
theorem test_witness_reset_invariant :
    ({} : Config).wf = true ∧ ({ condReset := 0x0000#16 } : Config).wf = true := by decide
theorem test_witness_cond_changes :
    nextIs (step (running 0x1021#16)) (fun t => t.cond != (running 0x1021#16).cond) ∧
    (running 0x1021#16).config.trapInSetsFlags = false := by decide
theorem test_witness_register_changes :
    nextIs (step (running 0x4810#16)) (fun t => t.reg 7#3 != (running 0x4810#16).reg 7#3) := by decide
theorem test_witness_memory_changes :
    let s := machine 0x3000#16 2#16 [(1#3, 0xBEEF#16)] [(0x3000#16, 0x33FD#16)]
    nextIs (step s) (fun t => t.mem.read 0x2FFE#16 != s.mem.read 0x2FFE#16) := by decide
theorem test_witness_poll_changes_memory :
    let s := polling [some 0x61#16] (machine 0xFDFF#16 2#16 [] [(0xFDFF#16, 0x2000#16)])
    nextIs (step s) (fun t => t.mem.read 0xFE02#16 != s.mem.read 0xFE02#16 && t.polls != s.polls) := by decide
theorem test_witness_run_ends :
    nextIs (step (running 0xF025#16)) (fun t => t.status == .halted) ∧
    (running 0xF025#16).status = .running := by decide
theorem test_witness_signal_ends_run :
    (State.reset.setSignal (some 0)).status = .running ∧
    nextIs (step (State.reset.setSignal (some 0))) (fun t => t.status == .halted && t.signal == none) := by
  decide
theorem test_witness_store_to_next :
    let s := machine 0x3001#16 2#16 [(1#3, 0x1021#16)] []
    storeOf s (.st 1#3 0#9) = some (s.pc, 1#3) ∧ s.pc ≠ s.config.kbsrAddr ∧
    nextIs (exec (.st 1#3 0#9) s) (fun t => t.fetchWord == 0x1021#16) := by decide
theorem test_witness_keys :
    (Instr.puts).wf = true ∧ Instr.puts ≠ .getc ∧ Instr.puts ≠ .inp ∧
    nextIs (exec .puts hiState) (fun _ => true) := by decide
theorem test_witness_boot :
    readImage (some [0x30#8, 0x00#8, 0x12#8, 0x34#8]) = .ok (0x3000#16, [0x1234#16]) := rfl
theorem test_witness_image :
    [0x1234#16].length ≤ 0x10000 - (0xFFFF#16).toNat ∧ 0x10000 - (0xFFFF#16).toNat < [1#16, 2#16].length ∧
    [0x30#8].length < 2 ∧ 2 ≤ [1#8, 2#8, 3#8].length ∧ [1#8, 2#8, 3#8].length % 2 = 1 := by decide

end Sys2Proof.Tests
end

section
/-! PROOFS. What a step may write (registers, COND, memory, parameters, run status), said once for every
instruction and every unfinished routine, and the statements of spec/10_state.md that follow: the invariant,
the writers of COND and of the general registers, Halted, and the tries of a wait. -/

namespace Sys2Proof

/-! ### Every word decodes to a well-formed instruction -/

theorem decodeJmp_wf (base : Reg) : (decodeJmp base).wf = true := by
  unfold decodeJmp
  split <;> simp [Instr.wf, *]

theorem decodeTrap_wf (v : BitVec 8) : (decodeTrap v).wf = true := by
  rcases decodeTrap_cases v with ⟨_, h⟩ | ⟨_, h⟩ | ⟨_, h⟩ | ⟨_, h⟩ | ⟨_, h⟩ | ⟨_, h⟩ | ⟨hv, h⟩ <;> rw [h]
  case inr.inr.inr.inr.inr.inr => simp [Instr.wf, hv]
  all_goals rfl

theorem decode_wf (w : Word) : (decode w).wf = true := by
  unfold decode
  split
  case h_2 | h_5 | h_6 => split <;> rfl
  case h_13 => exact decodeJmp_wf _
  case h_16 => exact decodeTrap_wf _
  all_goals rfl

end Sys2Proof

namespace Sys2Proof.Machine

/-- TRAP with a vector that names no routine does its entry only (R201). -/
theorem exec_trap_of_wf {v : BitVec 8} (h : (Instr.trap v).wf = true) (s : State) :
    exec (.trap v) s = .next s.trapEntry := by
  simp_all [Instr.wf, isRoutineVector, exec, execTrap]

/-! ### The flags -/

/-- `setcc` leaves exactly one flag (R25, R27). -/
theorem condOneHot_condOf (v : Word) : condOneHot (condOf v) := by
  rcases condOf_cases v with ⟨_, h⟩ | ⟨_, _, h⟩ | ⟨_, _, h⟩ <;> simp [condOneHot, h]

theorem flagsOf_condOf (v : Word) : FlagsOf v (condOf v) := by
  have sign : v.msb = v.getLsbD 15 := BitVec.msb_eq_getLsbD_last v
  rcases condOf_cases v with ⟨rfl, h⟩ | ⟨_, _, h⟩ | ⟨_, _, h⟩ <;> simp_all [FlagsOf]

/-! ### What the waits of GETC and IN write -/

/-- From `s` to `t` only a key may have been stored: the parameters and every register but R0 stay, and COND
is as it was, or a single flag where TRAP_IN_SETS_FLAGS is set (R182, R185, R193). -/
structure KeyWrites (s t : State) : Prop where
  config : t.config = s.config
  regs : SameRegsBut [0#3] s t
  cond : t.cond = s.cond ∨ condOneHot t.cond ∧ s.config.trapInSetsFlags = true

theorem KeyWrites.of_eq {s t : State} (config : t.config = s.config) (regs : t.regs = s.regs)
    (cond : t.cond = s.cond) : KeyWrites s t :=
  ⟨config, fun r _ => State.reg_congr regs r, .inl cond⟩

theorem KeyWrites.trans {s t u : State} (h : KeyWrites s t) (k : KeyWrites t u) : KeyWrites s u where
  config := k.config.trans h.config
  regs := fun r hr => (k.regs r hr).trans (h.regs r hr)
  cond := by
    rcases k.cond with same | ⟨hot, flags⟩
    · rw [same]; exact h.cond
    · exact .inr ⟨hot, h.config ▸ flags⟩

theorem KeyWrites.keyTaken (s : State) : KeyWrites s s.keyTaken :=
  .of_eq (by simp) (by simp) (by simp)

theorem KeyWrites.storeKey (s : State) (c : Word) : KeyWrites s (s.storeKey c) where
  config := by simp
  regs := fun r hr => by rw [State.reg_storeKey, if_neg (by simpa using hr)]
  cond := by
    rw [State.storeKey_cond]
    split
    · exact .inr ⟨condOneHot_condOf c, ‹_›⟩
    · exact .inl rfl

/-- A point that admits the signal writes what going on writes. -/
theorem KeyWrites.atPoint {s : State} {go : State → State} (h : ∀ t, KeyWrites t (go t)) :
    KeyWrites s (s.atPoint go) :=
  s.atPoint_elim go (fun _ => .of_eq rfl rfl rfl)
    (fun n _ => .trans (t := s.setSignal (some n)) (.of_eq rfl rfl rfl) (h _)) (fun _ => h s)

theorem KeyWrites.getcWait (s : State) : KeyWrites s s.getcWait := by
  refine .atPoint fun t => (KeyWrites.keyTaken t).trans ?_
  split
  · exact .of_eq rfl rfl rfl
  · exact .storeKey _ _

theorem KeyWrites.inWait (s : State) : KeyWrites s s.inWait := by
  refine .atPoint fun t => (KeyWrites.keyTaken t).trans ?_
  split
  · exact .of_eq rfl rfl rfl
  next c _ =>
    have echo (u : State) : KeyWrites u (u.emit (.out c)) := .of_eq rfl rfl rfl
    exact .atPoint fun u => (echo u).trans (.atPoint fun v => .storeKey v c)

/-! ### What an instruction writes -/

/-- From `s` to `t` no register outside `rs` is written, COND is written only where `cc` or the parameter
TRAP_IN_SETS_FLAGS allows it and then with exactly one flag, the parameters and the canonical form of memory
stay, and a run that ends on the way leaves nothing unfinished. -/
structure Writes (rs : List Reg) (cc : Bool) (s t : State) : Prop where
  config : t.config = s.config
  wf : s.mem.wf = true → t.mem.wf = true
  regs : SameRegsBut rs s t
  cond : t.cond = s.cond ∨ condOneHot t.cond ∧ (cc = true ∨ s.config.trapInSetsFlags = true)
  halted : s.status = .running → s.activity = .idle → t.status = .halted → t.activity = .idle

section
variable {rs : List Reg} {cc : Bool} {s t u : State}

theorem Writes.refl (s : State) : Writes [] false s s :=
  ⟨rfl, id, fun _ _ => rfl, .inl rfl, fun _ h _ => h⟩

theorem Writes.setRegCc (s : State) (dr : Reg) (v : Word) : Writes [dr] true s (s.setRegCc dr v) :=
  ⟨rfl, id, fun r h => by simp_all, .inr ⟨condOneHot_condOf v, .inl rfl⟩, fun _ h _ => h⟩

theorem Writes.setReg (s : State) (dr : Reg) (v : Word) : Writes [dr] false s (s.setReg dr v) :=
  ⟨rfl, id, fun r h => s.reg_setReg_ne v (by simpa using h), .inl rfl, fun _ h _ => h⟩

theorem Writes.writeWord (s : State) (a v : Word) : Writes [] false s (s.writeWord a v) :=
  ⟨rfl, fun h => s.wf_writeWord h a v, fun _ _ => rfl, .inl rfl, fun _ h _ => h⟩

theorem Writes.emit (s : State) (e : Event) : Writes [] false s (s.emit e) :=
  ⟨rfl, id, fun _ _ => rfl, .inl rfl, fun _ h _ => h⟩

theorem Writes.terminate (s : State) : Writes [] false s s.terminate :=
  ⟨rfl, id, fun _ _ => rfl, .inl rfl, fun _ h _ => h⟩

/-- Taking the signal writes no register and no COND, so it is within every permission. -/
theorem Writes.takeSignal (s : State) : Writes rs cc s s.takeSignal :=
  ⟨rfl, id, fun _ _ => rfl, .inl rfl, fun _ h _ => h⟩

/-- The jump at the end of an instruction writes PC only. -/
theorem Writes.setPc (h : Writes rs cc s t) (v : Word) : Writes rs cc s (t.setPc v) :=
  ⟨h.config, h.wf, h.regs, h.cond, h.halted⟩

/-- What is written from `u` on is written from `s` on, if the way from `s` to `u` writes none of it. -/
theorem Writes.from_start (h : Writes rs cc u t) (config : u.config = s.config)
    (wf : s.mem.wf = true → u.mem.wf = true) (regs : u.regs = s.regs) (cond : u.cond = s.cond)
    (status : u.status = s.status) (activity : u.activity = s.activity) : Writes rs cc s t where
  config := h.config.trans config
  wf := fun w => h.wf (wf w)
  regs := fun r hr => (h.regs r hr).trans (State.reg_congr regs r)
  cond := by rw [← cond, ← config]; exact h.cond
  halted := by rw [← status, ← activity]; exact h.halted

/-- A read before the rest of an instruction writes nothing but the keyboard registers (R55). -/
theorem Writes.afterRead {a : Word} (h : Writes rs cc (s.afterRead a) t) : Writes rs cc s t :=
  h.from_start (by simp) (State.wf_afterRead · a) (by simp) (by simp) (by simp) (by simp)

/-- The fetch writes PC and what its read writes. -/
theorem Writes.afterFetch (h : Writes rs cc s.afterFetch t) : Writes rs cc s t :=
  Writes.afterRead (h.from_start (u := s.afterFetch) rfl id rfl rfl rfl rfl)

/-- A point writes what going on writes. -/
theorem Writes.atPoint {go : State → State} (h : ∀ u, Writes rs cc u (go u)) :
    Writes rs cc s (s.atPoint go) :=
  s.atPoint_elim go (fun _ => .takeSignal s)
    (fun _ _ => (h _).from_start rfl id rfl rfl rfl rfl) (fun _ => h s)

/-- The entry of a TRAP adds R7 to what may be written, under the parameter (R180). -/
theorem Writes.trapEntry (h : Writes rs cc s.trapEntry t) : Writes (rs ++ linkRegs s.config) cc s t where
  config := by simpa using h.config
  wf := fun w => h.wf (by simpa using w)
  regs := fun r hr => by
    have link : ¬ (s.config.trapLinksR7 = true ∧ r = 7#3) := fun ⟨hl, h7⟩ => by
      simp [linkRegs, hl, h7] at hr
    rw [h.regs r fun hm => hr (by simp [hm]), State.reg_trapEntry, if_neg link]
  cond := by simpa using h.cond
  halted := by simpa using h.halted

theorem Writes.getcWait (s : State) : Writes [0#3] false s s.getcWait where
  config := (getcWait_keeps s).config
  wf := (getcWait_keeps s).wf
  regs := (KeyWrites.getcWait s).regs
  cond := by simpa using (KeyWrites.getcWait s).cond
  halted := fun r i => getcWait_halted_idle s ⟨r, i⟩

theorem Writes.inWait (s : State) : Writes [0#3] false s s.inWait where
  config := (inWait_keeps s).config
  wf := (inWait_keeps s).wf
  regs := (KeyWrites.inWait s).regs
  cond := by simpa using (KeyWrites.inWait s).cond
  halted := fun r i => inWait_halted_idle s ⟨r, i⟩

theorem Writes.putsLoop (fuel : Nat) (a : Word) (s : State) :
    Writes [] false s (putsLoop fuel a s) where
  config := (putsLoop_keeps fuel a s).config
  wf := (putsLoop_keeps fuel a s).wf
  regs := fun r _ => State.reg_congr (putsLoop_regs fuel a s) r
  cond := .inl (putsLoop_cond fuel a s)
  halted := fun r i => putsLoop_halted_idle fuel a s ⟨r, i⟩

theorem Writes.putspLoop (fuel : Nat) (a : Word) (s : State) :
    Writes [] false s (putspLoop fuel a s) where
  config := (putspLoop_keeps fuel a s).config
  wf := (putspLoop_keeps fuel a s).wf
  regs := fun r _ => State.reg_congr (putspLoop_regs fuel a s) r
  cond := .inl (putspLoop_cond fuel a s)
  halted := fun r i => putspLoop_halted_idle fuel a s ⟨r, i⟩

/-- An instruction completes, and writes no more than `writesRegs` and `writesCond` say. -/
theorem exec_writes {i : Instr} (hi : i.wf = true) (s : State) :
    ∃ t, exec i s = .next t ∧ Writes (writesRegs s.config i) (writesCond i) s t := by
  cases i with
  | add | addi | and | andi | not | lea => exact ⟨_, rfl, .setRegCc s _ _⟩
  | ld | ldr => exact ⟨_, rfl, (Writes.setRegCc _ _ _).afterRead⟩
  | ldi => exact ⟨_, rfl, (Writes.setRegCc _ _ _).afterRead.afterRead⟩
  | st | str => exact ⟨_, rfl, .writeWord s _ _⟩
  | sti => exact ⟨_, rfl, (Writes.writeWord _ _ _).afterRead⟩
  | br nzp off =>
    refine ⟨_, rfl, ?_⟩
    split
    · exact (Writes.refl s).setPc _
    · exact .refl s
  | jmp | ret => exact ⟨_, rfl, (Writes.refl s).setPc _⟩
  | jsr | jsrr => exact ⟨_, rfl, (Writes.setReg s 7#3 s.pc).setPc _⟩
  | rti | res => exact ⟨_, rfl, .refl s⟩
  | trap v => exact ⟨_, exec_trap_of_wf hi s, (Writes.refl _).trapEntry⟩
  | getc => exact ⟨_, rfl, (Writes.getcWait _).trapEntry⟩
  | inp => exact ⟨_, rfl, (Writes.atPoint fun t =>
      (Writes.inWait (t.emit .prompt)).from_start rfl id rfl rfl rfl rfl).trapEntry⟩
  | out => exact ⟨_, rfl, (Writes.atPoint fun t => Writes.emit t _).trapEntry⟩
  | puts => exact ⟨_, rfl, (Writes.putsLoop _ _ _).trapEntry⟩
  | putsp => exact ⟨_, rfl, (Writes.putspLoop _ _ _).trapEntry⟩
  | halt => exact ⟨_, rfl, (Writes.terminate _).trapEntry⟩

/-- What a step writes: nothing in Halted; else what the instruction it begins with may write, R0 at the end
of a wait, and neither register nor COND where it takes the signal or goes on with a string. -/
theorem step_writes (h : step s = .next t) :
    (s.status = .halted ∧ t = s) ∨
    (s.status = .running ∧
      ((∃ i, s.nextInstr = some i ∧
          Writes (writesRegs s.config i) (writesCond i) (s.setActivity .idle) t) ∨
        ((s.activity = .waitGetc ∨ s.activity = .waitIn) ∧
          Writes [0#3] false (s.setActivity .idle) t) ∨
        Writes [] false (s.setActivity .idle) t)) := by
  have idle (hi : s.activity = .idle) : s.setActivity .idle = s := hi ▸ s.setActivity_self
  rcases step_cases h with ⟨hs, rfl⟩ | ⟨hs, hi, _, rfl⟩ | ⟨hs, hi, _, next, run⟩ | ⟨hs, hw, rfl⟩ |
    ⟨hs, hw, rfl⟩ | ⟨a, hs, _, rfl⟩ | ⟨a, hs, _, rfl⟩
  · exact .inl ⟨hs, rfl⟩
  · exact .inr ⟨hs, .inr (.inr (by rw [idle hi]; exact .takeSignal s))⟩
  · obtain ⟨t', run', w⟩ := exec_writes (decode_wf s.fetchWord)
      (s.setSignal (s.signal.map (· - 1))).afterFetch
    obtain rfl : t' = t := Host.Outcome.next.inj (run'.symm.trans run)
    have config : (s.setSignal (s.signal.map (· - 1))).afterFetch.config = s.config := by
      simp [State.afterFetch]
    have w' := w.afterFetch.from_start (s := s) rfl id rfl rfl rfl rfl
    rw [config] at w'
    exact .inr ⟨hs, .inl ⟨_, next, by rwa [idle hi]⟩⟩
  · exact .inr ⟨hs, .inr (.inl ⟨.inl hw, .getcWait _⟩)⟩
  · exact .inr ⟨hs, .inr (.inl ⟨.inr hw, .inWait _⟩)⟩
  · exact .inr ⟨hs, .inr (.inr (.putsLoop _ _ _))⟩
  · exact .inr ⟨hs, .inr (.inr (.putspLoop _ _ _))⟩

/-- What is written from a running machine with nothing unfinished keeps the invariant. -/
theorem Writes.keeps_inv (h : Writes rs cc s t) (hs : s.Inv) (run : s.status = .running)
    (idle : s.activity = .idle) : t.Inv where
  mem := h.wf hs.mem
  config := h.config ▸ hs.config
  cond := by
    rcases h.cond with same | ⟨hot, _⟩
    · simpa [State.condLegal, same, h.config] using hs.cond
    · exact .inl hot
  halted := h.halted run idle

/-- Taking up an unfinished instruction keeps the invariant. -/
theorem State.Inv.setActivity_idle (hs : s.Inv) : (s.setActivity .idle).Inv :=
  ⟨hs.mem, hs.config, hs.cond, fun _ => rfl⟩

/-! ### One try of a wait with no signal about (R31) -/

theorem step_waitGetc (run : s.status = .running) (wait : s.activity = .waitGetc) :
    step s = .next (s.setActivity .idle).getcWait :=
  step_of_settle (by simp [State.nextAction, run, wait])

theorem step_waitIn (run : s.status = .running) (wait : s.activity = .waitIn) :
    step s = .next (s.setActivity .idle).inWait :=
  step_of_settle (by simp [State.nextAction, run, wait])

/-- With no key and no signal GETC waits on (R31). -/
theorem State.getcWait_noKey (quiet : s.signal = none) (noKey : s.keyAnswer = none) :
    s.getcWait = s.keyTaken.setActivity .waitGetc := by
  simp [State.getcWait, State.atPoint_none quiet, noKey]

/-- With no key and no signal IN waits on (R31). -/
theorem State.inWait_noKey (quiet : s.signal = none) (noKey : s.keyAnswer = none) :
    s.inWait = s.keyTaken.setActivity .waitIn := by
  simp [State.inWait, State.atPoint_none quiet, noKey]

/-- A key ends GETC's wait (R185). -/
theorem State.getcWait_key {c : Word} (quiet : s.signal = none) (key : s.keyAnswer = some c) :
    s.getcWait = s.keyTaken.storeKey c := by
  simp [State.getcWait, State.atPoint_none quiet, key]

/-- A key ends IN's wait, with its echo (R193). -/
theorem State.inWait_key {c : Word} (quiet : s.signal = none) (key : s.keyAnswer = some c) :
    s.inWait = (s.keyTaken.emit (.out c)).storeKey c := by
  simp [State.inWait, State.atPoint_none, quiet, key]

/-- A try that leaves the machine in its wait changes nothing but the keys to come. -/
theorem State.keyTaken_resume (s : State) :
    (s.setActivity .idle).keyTaken.setActivity s.activity = s.keyTaken := by
  rw [State.keyTaken_setActivity, State.setActivity_setActivity, ← s.keyTaken_activity,
    State.setActivity_self]

end

/-! ### The statements -/

/-- Settles O48: whatever a step writes from a running machine keeps the invariant, and in Halted it writes
nothing. -/
theorem stepKeepsInvariant : Obligations.StepKeepsInvariant := by
  intro s t hs h
  have idle := hs.setActivity_idle
  rcases step_writes h with ⟨_, rfl⟩ | ⟨run, ⟨i, _, w⟩ | ⟨_, w⟩ | w⟩
  · exact hs
  · exact w.keeps_inv idle run rfl
  · exact w.keeps_inv idle run rfl
  · exact w.keeps_inv idle run rfl

/-- Settles O52: with TRAP_IN_SETS_FLAGS off, COND is written only as the instruction the step begins with
allows. -/
theorem onlyFlagWritersChangeCond : Obligations.OnlyFlagWritersChangeCond := by
  intro s t h off changed
  have allowed {rs cc} (w : Writes rs cc (s.setActivity .idle) t) : condOneHot t.cond ∧ cc = true := by
    rcases w.cond with same | ⟨hot, hcc | on⟩
    · exact absurd same changed
    · exact ⟨hot, hcc⟩
    · simp [off] at on
  rcases step_writes h with ⟨_, rfl⟩ | ⟨_, ⟨i, next, w⟩ | ⟨_, w⟩ | w⟩
  · exact absurd rfl changed
  · exact ⟨(allowed w).1, i, next, (allowed w).2⟩
  · exact absurd (allowed w).2 Bool.false_ne_true
  · exact absurd (allowed w).2 Bool.false_ne_true

/-- Settles O53: a register that changed is one of those the step may write. -/
theorem onlyNamedWritersChangeRegisters : Obligations.OnlyNamedWritersChangeRegisters := by
  intro s t r h changed
  have named {rs cc} (w : Writes rs cc (s.setActivity .idle) t) : r ∈ rs :=
    Decidable.byContradiction fun hr => changed (w.regs r hr)
  rcases step_writes h with ⟨_, rfl⟩ | ⟨run, ⟨i, next, w⟩ | ⟨waits, w⟩ | w⟩
  · exact absurd rfl changed
  · exact .inl ⟨i, next, named w⟩
  · exact .inr ⟨run, waits, List.mem_singleton.mp (named w)⟩
  · exact absurd (named w) List.not_mem_nil

/-- Settles O45: the action of a Halted machine is to settle where it is. -/
theorem haltedIsTerminal : Obligations.HaltedIsTerminal := fun s h =>
  step_of_settle (by simp [State.nextAction, h])

/-- Settles O40: after the entry of the TRAP (and IN's prompt) the first try gets no key. -/
theorem noKeyBeginsWait : Obligations.NoKeyBeginsWait := by
  intro s noKey quiet
  have hkeys := State.keyTaken_congr s.trapEntry_keys s.trapEntry_keyCount
  have quiet' : s.trapEntry.signal = none := by simpa using quiet
  have noKey' : s.trapEntry.keyAnswer = none := by simpa using noKey
  constructor
  · refine ⟨_, congrArg Host.Outcome.next (State.getcWait_noKey quiet' noKey'), ?_⟩
    simp [TrapRegs, SameMem, SameKeys, SamePolls, State.reg_trapEntry, quiet, hkeys]
  · have prompt := State.atPoint_none quiet' fun t => (t.emit .prompt).inWait
    have wait := State.inWait_noKey (s := s.trapEntry.emit .prompt) quiet' noKey'
    refine ⟨_, congrArg Host.Outcome.next (prompt.trans wait), ?_⟩
    simp [TrapRegs, SameMem, SameKeys, SamePolls, State.reg_trapEntry, quiet, hkeys,
      State.keyTaken_emit]

/-- Settles O41: each step is a try; where it gets a key, GETC and IN differ in the echo only. -/
theorem keyEndsWait : Obligations.KeyEndsWait := by
  intro s run quiet waits
  constructor
  · intro noKey
    have resume := s.keyTaken_resume
    rcases waits with wait | wait <;> rw [wait] at resume
    · rw [step_waitGetc run wait,
        State.getcWait_noKey (s := s.setActivity .idle) quiet noKey, resume]
    · rw [step_waitIn run wait,
        State.inWait_noKey (s := s.setActivity .idle) quiet noKey, resume]
  · intro c key
    rcases waits with wait | wait
    case' inl =>
      have ends := State.getcWait_key (s := s.setActivity .idle) quiet key
      refine ⟨_, (step_waitGetc run wait).trans (congrArg _ ends), ?_⟩
    case' inr =>
      have ends := State.inWait_key (s := s.setActivity .idle) quiet key
      refine ⟨_, (step_waitIn run wait).trans (congrArg _ ends), ?_⟩
    all_goals
      simp +contextual [SameRegsBut, SameMem, SameKeys, SamePolls, State.reg_storeKey,
        State.storeKey_cond, State.keyTaken_setActivity, flagsOf_condOf, quiet, wait, run]

end Sys2Proof.Machine
end

section
/-! PROOFS. The statements of spec/20_memory.md: the read port, the canonical form as data, exact addresses,
and what a step can do to a word of memory. What a store does is said once (`exec_store`), and once what every
other instruction leaves of a word (`exec_keepsWord`). -/

namespace Sys2Proof.Machine

/-! ### Exact addresses (R10, R52) -/

/-- `sext_N` is two's complement sign extension (R10). -/
theorem sext_eq_signExtend {n : Nat} (v : BitVec n) : sext v = v.signExtend 16 := by
  have ones : 0xFFFF#16 = BitVec.allOnes 16 := rfl
  ext j hj
  rw [BitVec.getElem_signExtend]
  by_cases hn : j < n
  · cases hs : v.msb <;> simp [sext, hs, hn]
  · have beyond : v.getLsbD j = false := BitVec.getLsbD_of_ge v j (by omega)
    cases hs : v.msb <;> simp [sext, hs, hn, ones, beyond, -BitVec.reduceAllOnes]

/-- A word plus an offset is their exact signed sum modulo 2^16 (R52). -/
theorem toNat_add_sext {n : Nat} (base : Word) (off : BitVec n) :
    ((base + sext off).toNat : Int) = ((base.toNat : Int) + off.toInt) % 65536 := by
  have ext : ((sext off).toNat : Int) = off.toInt % 65536 := by
    rw [sext_eq_signExtend, BitVec.signExtend, BitVec.toNat_ofInt]
    omega
  rw [BitVec.toNat_add]
  omega

/-! ### The canonical form as data (log entry 2) -/

theorem Memory.risesFrom_cons {lo k : Nat} {v : Word} {rest : Memory} :
    Memory.risesFrom lo ((k, v) :: rest) = true ↔
      lo ≤ k ∧ k < 65536 ∧ v ≠ 0x0000#16 ∧ Memory.risesFrom (k + 1) rest = true := by
  simp [Memory.risesFrom, and_assoc]

/-- Below its first address a canonical memory reads 0x0000. -/
theorem Memory.read_below {lo : Nat} {m : Memory} (hm : m.risesFrom lo = true) {a : Word}
    (h : a.toNat < lo) : m.read a = 0x0000#16 := by
  induction m generalizing lo with
  | nil => rfl
  | cons c rest ih =>
    obtain ⟨k, v⟩ := c
    obtain ⟨hlo, -, -, hr⟩ := Memory.risesFrom_cons.mp hm
    rw [Memory.read, if_neg (by omega)]
    exact ih hr (by omega)

/-- The first listed word reads as it is listed. -/
theorem Memory.read_head {k : Nat} (hk : k < 65536) (v : Word) (rest : Memory) :
    Memory.read ((k, v) :: rest) (BitVec.ofNat 16 k) = v := by
  simp [Memory.read, Nat.mod_eq_of_lt hk]

section
variable {lo lo' k k' : Nat} {v v' : Word} {rest rest' m : Memory}

/-- A memory that reads like one that lists `k` does not begin beyond `k`. -/
theorem Memory.not_risesFrom_of_read_eq (hc : Memory.risesFrom lo ((k, v) :: rest) = true)
    (same : ∀ a, Memory.read ((k, v) :: rest) a = m.read a) : ¬ m.risesFrom (k + 1) = true := by
  obtain ⟨-, hk, hv, -⟩ := Memory.risesFrom_cons.mp hc
  intro hm
  have zero := Memory.read_below hm (a := BitVec.ofNat 16 k) (by simp; omega)
  exact hv ((Memory.read_head hk v rest).symm.trans ((same _).trans zero))

theorem Memory.head_le_of_read_eq (hc : Memory.risesFrom lo ((k, v) :: rest) = true)
    (hc' : Memory.risesFrom lo' ((k', v') :: rest') = true)
    (same : ∀ a, Memory.read ((k, v) :: rest) a = Memory.read ((k', v') :: rest') a) : k' ≤ k :=
  Nat.le_of_not_lt fun beyond => Memory.not_risesFrom_of_read_eq hc same
    (Memory.risesFrom_cons.mpr ⟨beyond, (Memory.risesFrom_cons.mp hc').2⟩)

/-- Canonical memories that read alike and list the same word first read alike past it. -/
theorem Memory.read_tail_eq (hr : rest.risesFrom (k + 1) = true) (hr' : rest'.risesFrom (k + 1) = true)
    (same : ∀ a, Memory.read ((k, v) :: rest) a = Memory.read ((k, v) :: rest') a) (a : Word) :
    rest.read a = rest'.read a := by
  by_cases ha : k = a.toNat
  · rw [Memory.read_below hr (by omega), Memory.read_below hr' (by omega)]
  · simpa [Memory.read, ha] using same a

end

/-- Canonical memories that read alike list the same word first, and past it they read alike again. -/
theorem Memory.eq_of_read_eq {lo lo' : Nat} {m m' : Memory} (hm : m.risesFrom lo = true)
    (hm' : m'.risesFrom lo' = true) (same : ∀ a, m.read a = m'.read a) : m = m' := by
  induction m generalizing lo lo' m' with
  | nil =>
    cases m' with
    | nil => rfl
    | cons c' rest' => exact absurd rfl (Memory.not_risesFrom_of_read_eq hm' fun a => (same a).symm)
  | cons c rest ih =>
    cases m' with
    | nil => exact absurd rfl (Memory.not_risesFrom_of_read_eq hm same)
    | cons c' rest' =>
      obtain ⟨k, v⟩ := c
      obtain ⟨k', v'⟩ := c'
      obtain rfl : k = k' := Nat.le_antisymm
        (Memory.head_le_of_read_eq hm' hm fun a => (same a).symm) (Memory.head_le_of_read_eq hm hm' same)
      obtain ⟨-, hk, -, hr⟩ := Memory.risesFrom_cons.mp hm
      obtain ⟨-, -, -, hr'⟩ := Memory.risesFrom_cons.mp hm'
      obtain rfl : v = v' := by
        rw [← Memory.read_head hk v rest, same, Memory.read_head hk]
      rw [ih hr hr' (Memory.read_tail_eq hr hr' same)]

/-! ### A read of KBSR (R55, R232) -/

/-- A poll takes the next scripted answer off the list. -/
theorem State.pollTaken_scripted {s : State} {ans : Option Word} {rest : List (Option Word)}
    (h : s.polls = ans :: rest) : s.pollAnswer = ans ∧ s.pollTaken.polls = rest := by
  simp [State.pollAnswer, State.pollTaken, h]

/-- A read of KBSR latches the poll's answer, and the word it returns is KBSR's. -/
theorem State.polled_afterRead_kbsr {s : State} (hs : s.config.wf = true) :
    Polled s.pollAnswer (s.readWord s.config.kbsrAddr) s (s.afterRead s.config.kbsrAddr) := by
  have apart : s.config.kbsrAddr ≠ s.config.kbdrAddr := by simp_all [Config.wf]
  refine ⟨fun c key => ?_, fun noKey => ?_, fun a h1 h2 => s.mem_read_afterRead _ h1 h2⟩
  · simp [State.readWord, State.afterRead_kbsr, key, State.latch_some_mem, Memory.read_write, apart]
  · simp [State.readWord, State.afterRead_kbsr, noKey, State.latch_none_mem, Memory.read_write,
      apart.symm]

/-! ### What happens to one word of memory -/

/-- From `s` to `t` the word at `a` stays, or it is a keyboard register and a poll took an answer of the host
(R55, R182). -/
structure KeepsWord (a : Word) (s t : State) : Prop where
  config : t.config = s.config
  answers : t.polls.length ≤ s.polls.length ∧ s.pollCount ≤ t.pollCount
  word : t.mem.read a = s.mem.read a ∨
    (a = s.config.kbsrAddr ∨ a = s.config.kbdrAddr) ∧
      (t.polls.length < s.polls.length ∨ s.pollCount < t.pollCount)

section
variable {a : Word} {s t u : State}

/-- Nothing is polled and the word stays. -/
theorem KeepsWord.of_eq (config : t.config = s.config) (polls : t.polls = s.polls)
    (pollCount : t.pollCount = s.pollCount) (word : t.mem.read a = s.mem.read a) : KeepsWord a s t :=
  ⟨config, ⟨polls ▸ le_rfl, pollCount ▸ le_rfl⟩, .inl word⟩

theorem KeepsWord.trans (h : KeepsWord a s t) (k : KeepsWord a t u) : KeepsWord a s u where
  config := k.config.trans h.config
  answers := ⟨k.answers.1.trans h.answers.1, h.answers.2.trans k.answers.2⟩
  word := by
    have hs := h.answers
    have ks := k.answers
    rcases k.word with same | ⟨reg, polled⟩
    · rw [same]
      exact h.word.imp_right (.imp_right fun _ => by omega)
    · exact .inr ⟨h.config ▸ reg, by omega⟩

/-- What a routine keeps of memory, for one word. -/
theorem RoutineKeeps.keepsWord (h : RoutineKeeps s t) (a : Word) : KeepsWord a s t where
  config := h.config
  answers := h.answers
  word := by
    by_cases reg : a = s.config.kbsrAddr ∨ a = s.config.kbdrAddr
    · exact h.polled.imp (congrArg (Memory.read · a)) (.intro reg)
    · obtain ⟨h1, h2⟩ := not_or.mp reg
      exact .inl (h.mem a h1 h2)

theorem KeepsWord.afterRead (s : State) (b : Word) : KeepsWord a s (s.afterRead b) :=
  (RoutineKeeps.afterRead s b).keepsWord a

theorem KeepsWord.afterFetch (s : State) : KeepsWord a s s.afterFetch :=
  (KeepsWord.afterRead s s.pc).trans (.of_eq rfl rfl rfl rfl)

theorem KeepsWord.loadFrom (s : State) (dr : Reg) (ea : Word) : KeepsWord a s (s.loadFrom dr ea) :=
  (KeepsWord.afterRead s ea).trans (.of_eq rfl rfl rfl rfl)

/-- A store keeps the words at all other addresses. -/
theorem KeepsWord.writeWord {ea : Word} (h : a ≠ ea) (s : State) (v : Word) :
    KeepsWord a s (s.writeWord ea v) :=
  .of_eq rfl rfl rfl (Memory.read_write_ne s.mem v h)

/-- The word changed, so it is a keyboard register, and the step polled. -/
theorem KeepsWord.polled (h : KeepsWord a s t) (changed : t.mem.read a ≠ s.mem.read a) :
    (a = s.config.kbsrAddr ∨ a = s.config.kbdrAddr) ∧ ¬ SamePolls s t := by
  obtain ⟨reg, polled⟩ := h.word.resolve_left changed
  refine ⟨reg, fun ⟨polls, pollCount⟩ => ?_⟩
  rw [polls, pollCount] at polled
  omega

/-! ### What an instruction does to memory -/

/-- ST, STR and STI end with a plain store, and before it they at most read (R131, R134, R140). -/
theorem exec_store {i : Instr} {ea : Word} {sr : Reg} (hi : storeOf s i = some (ea, sr)) :
    ∃ u, RoutineKeeps s u ∧ exec i s = .next (u.writeWord ea (s.reg sr)) := by
  cases i with
  | st | str =>
    obtain ⟨rfl, rfl⟩ := Prod.mk.inj (Option.some.inj hi)
    exact ⟨s, .refl s, rfl⟩
  | sti =>
    obtain ⟨rfl, rfl⟩ := Prod.mk.inj (Option.some.inj hi)
    exact ⟨_, .afterRead s _, rfl⟩
  | _ => cases hi

/-- An instruction that is no store keeps every word of memory but for its polls (R51, R55, R182). -/
theorem exec_keepsWord {i : Instr} (wf : i.wf = true) (hi : storeOf s i = none) (a : Word) :
    ∃ t, exec i s = .next t ∧ KeepsWord a s t := by
  have entry : KeepsWord a s s.trapEntry := (RoutineKeeps.trapEntry s).keepsWord a
  cases i with
  | st | str | sti => cases hi
  | add | addi | and | andi | not | lea | jmp | ret | jsr | jsrr | rti | res =>
    exact ⟨_, rfl, .of_eq rfl rfl rfl rfl⟩
  | br nzp off =>
    refine ⟨_, rfl, ?_⟩
    split <;> exact .of_eq rfl rfl rfl rfl
  | ld | ldr => exact ⟨_, rfl, .loadFrom s _ _⟩
  | ldi => exact ⟨_, rfl, (KeepsWord.afterRead s _).trans (.loadFrom _ _ _)⟩
  | trap v => exact ⟨_, exec_trap_of_wf wf s, entry⟩
  | getc => exact ⟨_, rfl, entry.trans ((getcWait_keeps _).keepsWord a)⟩
  | inp => exact ⟨_, rfl, entry.trans ((RoutineKeeps.atPoint fun t =>
      (RoutineKeeps.emit t _).trans (inWait_keeps _)).keepsWord a)⟩
  | out => exact ⟨_, rfl, entry.trans ((RoutineKeeps.atPoint fun t => .emit t _).keepsWord a)⟩
  | puts => exact ⟨_, rfl, entry.trans ((putsLoop_keeps _ _ _).keepsWord a)⟩
  | putsp => exact ⟨_, rfl, entry.trans ((putspLoop_keeps _ _ _).keepsWord a)⟩
  | halt => exact ⟨_, rfl, entry.trans (.of_eq rfl rfl rfl rfl)⟩

/-- Every instruction stores to `a`, or keeps the word at `a` but for its polls. -/
theorem exec_word {i : Instr} (wf : i.wf = true) (run : exec i s = .next t) (a : Word) :
    (∃ sr, storeOf s i = some (a, sr) ∧ t.mem.read a = s.reg sr) ∨ KeepsWord a s t := by
  rcases hi : storeOf s i with _ | ⟨ea, sr⟩
  · obtain ⟨t', run', keeps⟩ := exec_keepsWord wf hi a
    obtain rfl : t' = t := Host.Outcome.next.inj (run'.symm.trans run)
    exact .inr keeps
  · obtain ⟨u, reads, run'⟩ := exec_store hi
    obtain rfl := Host.Outcome.next.inj (run'.symm.trans run)
    by_cases ha : a = ea
    · subst ha
      exact .inl ⟨sr, rfl, Memory.read_write_self ..⟩
    · exact .inr ((reads.keepsWord a).trans (.writeWord ha u _))

/-! ### A store does not look at the signal -/

theorem State.afterFetch_setSignal (s : State) (g : Option Nat) :
    (s.setSignal g).afterFetch = s.afterFetch.setSignal g :=
  congrArg (·.setPc (s.pc + 1#16)) (s.afterRead_setSignal g s.pc)

theorem storeOf_setSignal (s : State) (g : Option Nat) (i : Instr) :
    storeOf (s.setSignal g) i = storeOf s i := by
  cases i with
  | sti sr off => exact congrArg (fun w => some (w, sr)) (s.readWord_setSignal g _)
  | _ => rfl

/-- A step stores to `a` what a register held when it began, or keeps the word at `a` but for its polls. -/
theorem step_word (h : step s = .next t) (a : Word) :
    (∃ i sr, s.nextInstr = some i ∧ storeOf s.afterFetch i = some (a, sr) ∧ t.mem.read a = s.reg sr) ∨
    KeepsWord a s t := by
  have idle : KeepsWord a s (s.setActivity .idle) := .of_eq rfl rfl rfl rfl
  rcases step_cases h with ⟨_, rfl⟩ | ⟨_, _, due, rfl⟩ | ⟨_, _, _, next, run⟩ | ⟨_, _, rfl⟩ |
    ⟨_, _, rfl⟩ | ⟨b, _, _, rfl⟩ | ⟨b, _, _, rfl⟩
  · exact .inr (.of_eq rfl rfl rfl rfl)
  · exact .inr (.of_eq rfl rfl rfl rfl)
  · rcases exec_word (decode_wf s.fetchWord) run a with ⟨sr, store, word⟩ | keeps
    · rw [State.afterFetch_setSignal] at store word
      rw [storeOf_setSignal] at store
      exact .inl ⟨_, sr, next, store, word.trans (State.reg_congr (by simp [State.afterFetch]) sr)⟩
    · have signal : KeepsWord a s (s.setSignal (s.signal.map (· - 1))) := .of_eq rfl rfl rfl rfl
      exact .inr (signal.trans ((KeepsWord.afterFetch _).trans keeps))
  · exact .inr (idle.trans ((getcWait_keeps _).keepsWord a))
  · exact .inr (idle.trans ((inWait_keeps _).keepsWord a))
  · exact .inr (idle.trans ((putsLoop_keeps _ _ _).keepsWord a))
  · exact .inr (idle.trans ((putspLoop_keeps _ _ _).keepsWord a))

end

/-! ### The statements -/

/-- Settles O8: at KBSR_ADDR a read latches the poll's answer and takes it off the list; elsewhere the port
is plain. -/
theorem readPortPollsAtStatusOnly : Obligations.ReadPortPollsAtStatusOnly := by
  refine ⟨fun s hs => ⟨State.polled_afterRead_kbsr hs, fun ans rest scripted => ?_, ?_⟩,
    fun s a ha => ⟨State.readWord_ne ha, State.afterRead_ne ha⟩⟩
  · simpa [State.afterRead_kbsr] using State.pollTaken_scripted scripted
  · simp [SameRegsBut, SameRun, SameKeys]

/-- Settles O9, by induction on the first of the memories. -/
theorem canonicalMemoryIsUnique : Obligations.CanonicalMemoryIsUnique := fun _ _ hm hm' same =>
  Memory.eq_of_read_eq hm hm' same

/-- Settles O10: each address is a word plus a sign-extended field. -/
theorem addressesWrapModulo65536 : Obligations.AddressesWrapModulo65536 := fun s =>
  ⟨toNat_add_sext s.pc, fun base => toNat_add_sext (s.reg base), toNat_add_sext s.pc⟩

/-- Settles O54: a word that changed and was not stored to is a keyboard register, and the step polled. -/
theorem onlyStoresAndPollsChangeMemory : Obligations.OnlyStoresAndPollsChangeMemory :=
  fun _ _ a h changed => (step_word h a).imp_right (·.polled changed)

/-- Settles O57: the store is the instruction's last act and leaves PC, and the fetch away from KBSR_ADDR reads
the stored word. -/
theorem storeIsSeenByNextFetch : Obligations.StoreIsSeenByNextFetch := by
  intro i s t sr run store away
  obtain ⟨u, reads, run'⟩ := exec_store store
  obtain rfl := Host.Outcome.next.inj (run'.symm.trans run)
  have away' : u.pc ≠ u.config.kbsrAddr := by rwa [reads.pc, reads.config]
  calc (u.writeWord s.pc (s.reg sr)).fetchWord
      = (u.mem.write s.pc (s.reg sr)).read u.pc := State.readWord_ne away'
    _ = s.reg sr := by rw [reads.pc, Memory.read_write_self]

end Sys2Proof.Machine
end

section
/-! PROOFS. Decoder and encoder (spec/30_encoding.md): the words that decode to an instruction are those that
agree with its encoding in the bits it reads (`decode_eq_iff`), and the statements that follow from it. -/

namespace Sys2Proof

/-! ### Reading fields out of words that agree under a mask -/

section
variable {w v m : Word} (agree : w &&& m = v &&& m)
include agree

theorem getElem_eq_of_agree {j : Nat} (hj : j < 16) (read : m[j] = true) : w[j] = v[j] := by
  simpa [read] using congrArg (·[j]) agree

theorem extractLsb'_eq_of_agree {k n : Nat} (read : m.extractLsb' k n = BitVec.allOnes n) :
    w.extractLsb' k n = v.extractLsb' k n := by
  simpa [BitVec.extractLsb'_and, read] using congrArg (·.extractLsb' k n) agree

end

theorem and_or_eq {w a b x y : Word} (ha : w &&& a = x) (hb : w &&& b = y) : w &&& (a ||| b) = x ||| y := by
  rw [BitVec.and_or_distrib_left, ha, hb]

theorem extractLsb'_place_self {n : Nat} (v : BitVec n) {k : Nat} (h : k + n ≤ 16) :
    (place v k).extractLsb' k n = v := by
  ext j hj
  simp [show k + j < 16 by omega, hj]

theorem extractLsb'_place_of_disjoint {n : Nat} (v : BitVec n) {k l m : Nat} (h : l + m ≤ k ∨ k + n ≤ l) :
    (place v k).extractLsb' l m = 0#m := by
  ext j hj
  rcases h with below | above
  · simp [show ¬ k ≤ l + j by omega]
  · simp [BitVec.getLsbD_of_ge v (l + j - k) (by omega)]

/-! ### A field put back in its place is the word under the field's mask (R82) -/

theorem place_extractLsb' (w : Word) (k n : Nat) :
    place (w.extractLsb' k n) k = w &&& place (BitVec.allOnes n) k := by
  ext j hj
  by_cases hk : k ≤ j
  · by_cases hn : j - k < n <;> simp [hk, hn, hj, show k + (j - k) = j by omega]
  · simp [hk]

@[simp] theorem place_field11 (w : Word) : place (field11 w) 9 = w &&& 0x0E00#16 := place_extractLsb' w 9 3
@[simp] theorem place_field8 (w : Word) : place (field8 w) 6 = w &&& 0x01C0#16 := place_extractLsb' w 6 3
@[simp] theorem place_field2 (w : Word) : place (field2 w) 0 = w &&& 0x0007#16 := place_extractLsb' w 0 3
@[simp] theorem place_imm5 (w : Word) : place (imm5 w) 0 = w &&& 0x001F#16 := place_extractLsb' w 0 5
@[simp] theorem place_offset6 (w : Word) : place (offset6 w) 0 = w &&& 0x003F#16 := place_extractLsb' w 0 6
@[simp] theorem place_pcOffset9 (w : Word) : place (pcOffset9 w) 0 = w &&& 0x01FF#16 := place_extractLsb' w 0 9
@[simp] theorem place_pcOffset11 (w : Word) : place (pcOffset11 w) 0 = w &&& 0x07FF#16 :=
  place_extractLsb' w 0 11
@[simp] theorem place_trapvect8 (w : Word) : place (trapvect8 w) 0 = w &&& 0x00FF#16 := place_extractLsb' w 0 8

/-! ### Every word lies in the row of the instruction it decodes to -/

theorem and_opcode_of_bits {w : Word} {a b c d : Bool} (ha : w.getLsbD 15 = a) (hb : w.getLsbD 14 = b)
    (hc : w.getLsbD 13 = c) (hd : w.getLsbD 12 = d) :
    w &&& 0xF000#16 = place (BitVec.ofBoolListLE [d, c, b, a]) 12 := by
  subst ha hb hc hd
  ext j hj
  interval_cases j <;> simp [BitVec.ofBoolListLE]

theorem and_flagI (w : Word) : w &&& 0x0020#16 = if flagI w then 0x0020#16 else 0#16 := BitVec.and_twoPow w 5

theorem and_flagL (w : Word) : w &&& 0x0800#16 = if flagL w then 0x0800#16 else 0#16 := BitVec.and_twoPow w 11

theorem decodeJmp_row {w : Word} (op : w &&& 0xF000#16 = 0xC000#16) :
    w &&& (decodeJmp (field8 w)).row.mask = (decodeJmp (field8 w)).row.bits := by
  unfold decodeJmp
  split
  next seven => exact and_or_eq op ((place_field8 w).symm.trans (by rw [seven]))
  next => exact op

theorem decodeTrap_row {w : Word} (op : w &&& 0xF000#16 = 0xF000#16) :
    w &&& (decodeTrap (trapvect8 w)).row.mask = (decodeTrap (trapvect8 w)).row.bits := by
  rcases decodeTrap_cases (trapvect8 w) with
    ⟨v, h⟩ | ⟨v, h⟩ | ⟨v, h⟩ | ⟨v, h⟩ | ⟨v, h⟩ | ⟨v, h⟩ | ⟨-, h⟩ <;> rw [h]
  case inr.inr.inr.inr.inr.inr => exact op
  all_goals exact and_or_eq op ((place_trapvect8 w).symm.trans (by rw [v]))

/-- The opcode's four bits are the row's, with `I` in opcodes 0x1 and 0x5 and `L` in 0x4 (R86). -/
theorem decode_row (w : Word) : w &&& (decode w).row.mask = (decode w).row.bits := by
  unfold decode
  split <;> have op :=
    and_opcode_of_bits ‹w.getLsbD 15 = _› ‹w.getLsbD 14 = _› ‹w.getLsbD 13 = _› ‹w.getLsbD 12 = _›
  case h_2 | h_6 =>
    split
    · exact and_or_eq op ((and_flagI w).trans (if_pos ‹_›))
    · exact and_or_eq op ((and_flagI w).trans (if_neg ‹_›))
  case h_5 =>
    split
    · exact and_or_eq op ((and_flagL w).trans (if_pos ‹_›))
    · exact and_or_eq op ((and_flagL w).trans (if_neg ‹_›))
  case h_13 => exact decodeJmp_row op
  case h_16 => exact decodeTrap_row op
  all_goals exact op

/-! ### The encoding of what a word decodes to -/

/-- The bits an instruction reads beyond its row's: its operands. -/
def Instr.fieldMask (i : Instr) : Word := i.readMask &&& ~~~ i.row.mask

theorem mask_or_fieldMask (i : Instr) : i.row.mask ||| i.fieldMask = i.readMask := by
  cases i <;> simp only [Instr.row, Instr.fieldMask, Instr.readMask] <;> decide

/-- The encoder puts the row's match value and the word's own fields together (R83). -/
theorem encode_decode_fields (w : Word) :
    encode (decode w) &&& (decode w).readMask = (decode w).row.bits ||| w &&& (decode w).fieldMask := by
  unfold decode decodeJmp decodeTrap
  repeat' split
  all_goals
    simp only [encode, Instr.fieldMask, Instr.readMask, Instr.row]
    simp [BitVec.or_assoc, BitVec.and_assoc, ← BitVec.and_or_distrib_left, BitVec.and_or_distrib_right]

theorem encode_decode_agree (w : Word) :
    encode (decode w) &&& (decode w).readMask = w &&& (decode w).readMask := by
  rw [encode_decode_fields, ← mask_or_fieldMask, and_or_eq (decode_row w) rfl]

/-! ### The words that decode to an instruction -/

theorem decodeJmp_of_wf {base : Reg} (wf : (Instr.jmp base).wf = true) : decodeJmp base = .jmp base := by
  simpa [decodeJmp, Instr.wf] using wf

theorem decodeTrap_of_wf {v : BitVec 8} (wf : (Instr.trap v).wf = true) : decodeTrap v = .trap v := by
  simp_all [decodeTrap, Instr.wf, isRoutineVector]

/-- The decoder looks at bits and fields under the instruction's read mask only, and there the word is the
encoding, whose fields are the operands. -/
theorem decode_eq_of_agree {i : Instr} (wf : i.wf = true) {w : Word}
    (agree : w &&& i.readMask = encode i &&& i.readMask) : decode w = i := by
  cases i <;> simp only [Instr.readMask, Instr.row, encode] at agree
  all_goals
    simp [decode, flagI, flagL, field11, field8, field2, imm5, offset6, pcOffset9, pcOffset11, trapvect8,
      getElem_eq_of_agree agree, extractLsb'_eq_of_agree agree, BitVec.extractLsb'_or,
      extractLsb'_place_self, extractLsb'_place_of_disjoint]
  case jmp => exact decodeJmp_of_wf wf
  case trap => exact decodeTrap_of_wf wf
  all_goals rfl

theorem decode_eq_iff {w : Word} {i : Instr} :
    decode w = i ↔ i.wf = true ∧ w &&& i.readMask = encode i &&& i.readMask := by
  constructor
  · rintro rfl
    exact ⟨decode_wf w, (encode_decode_agree w).symm⟩
  · rintro ⟨wf, agree⟩
    exact decode_eq_of_agree wf agree

/-! ### The statements -/

/-- Settles O1: an encoding agrees with itself. -/
theorem decodeOfEncodeIsIdentity : Obligations.DecodeOfEncodeIsIdentity := fun _ wf =>
  decode_eq_iff.mpr ⟨wf, rfl⟩

/-- Settles O2: the bits read are the row's and the operands', and the encoder keeps both. -/
theorem encodeOfDecodeKeepsReadBits : Obligations.EncodeOfDecodeKeepsReadBits := encode_decode_agree

/-- Settles O3: the second word, too, agrees with the encoding of the instruction of the first. -/
theorem ignoredBitsNeverMatter : Obligations.IgnoredBitsNeverMatter := fun w _ agree =>
  decode_eq_iff.mpr ⟨decode_wf w, agree.symm.trans (encode_decode_agree w).symm⟩

/-- Settles O4, by the branches of the decoder. -/
theorem everyWordDecodesInItsRow : Obligations.EveryWordDecodesInItsRow := fun w =>
  ⟨decode_wf w, decode_row w⟩

end Sys2Proof
end

section
/-! PROOFS. The operate instructions (spec/40_operate.md). What they share is said once: a field in the ignored
bits of a word does not change what it decodes to (`or_place_and_readMask`), and an instruction that writes one
register with its flag leaves the rest as it was (`exec_operate`). Each statement adds its own result. -/

namespace Sys2Proof

/-! ### Words with ignored bits (R87) -/

/-- A field that lies in the bits an instruction ignores is not seen under its read mask. -/
theorem place_and_readMask {i : Instr} {n k : Nat} (x : BitVec n)
    (ignored : i.row.ignored.extractLsb' k n = BitVec.allOnes n) : place x k &&& i.readMask = 0#16 := by
  ext j hj
  by_cases inside : k ≤ j ∧ j - k < n
  · have bit : i.row.ignored[j] = true := by
      simpa [inside, hj] using congrArg (·.getLsbD (j - k)) ignored
    simp [Instr.readMask, bit]
  · have beyond : k ≤ j → x.getLsbD (j - k) = false := fun h => BitVec.getLsbD_of_ge x _ (by omega)
    simp +contextual [beyond]

theorem or_place_and_readMask {i : Instr} {n k : Nat} (x : BitVec n)
    (ignored : i.row.ignored.extractLsb' k n = BitVec.allOnes n) (w : Word) :
    (w ||| place x k) &&& i.readMask = w &&& i.readMask := by
  rw [BitVec.and_or_distrib_right, place_and_readMask x ignored, BitVec.or_zero]

theorem bitOr_right_comm (a b c : Word) : a ||| b ||| c = a ||| c ||| b := by
  rw [BitVec.or_assoc, BitVec.or_comm b, BitVec.or_assoc]

end Sys2Proof

namespace Sys2Proof.Machine

/-! ### Writing the destination register and its flag (R25, R119) -/

theorem operateFrame_setRegCc (dr : Reg) (s : State) (v : Word) : OperateFrame dr s (s.setRegCc dr v) :=
  ⟨(Writes.setRegCc s dr v).regs, rfl, fun _ => rfl, ⟨rfl, rfl, rfl, rfl⟩, ⟨rfl, rfl⟩, ⟨rfl, rfl⟩, rfl⟩

/-- An instruction that writes a register with its flag completes, and the rest stays as it was. -/
theorem exec_operate {i : Instr} {dr : Reg} {s : State} {v : Word}
    (run : exec i s = .next (s.setRegCc dr v)) :
    ∃ t, exec i s = .next t ∧ t.reg dr = v ∧ FlagsOf (t.reg dr) t.cond ∧ OperateFrame dr s t := by
  have value : (s.setRegCc dr v).reg dr = v := by simp
  exact ⟨_, run, value, by rw [value]; exact flagsOf_condOf v, operateFrame_setRegCc dr s v⟩

/-- A mask with a sign-extended field keeps the bits the field has, and above them those where its sign bit
is set (R115). -/
theorem getLsbD_and_sext {n : Nat} (w : Word) (v : BitVec n) (k : Nat) :
    (w &&& sext v).getLsbD k = (w.getLsbD k && if k < n then v.getLsbD k else v.msb) := by
  rw [BitVec.getLsbD_and, sext_eq_signExtend, BitVec.getLsbD_signExtend]
  by_cases hk : k < 16
  · simp [hk]
  · simp [BitVec.getLsbD_of_ge w k (by omega)]

/-! ### The statements -/

/-- Settles O11: the word is the encoding but for a field in the ignored bits 4:3. -/
theorem addRegisterResult : Obligations.AddRegisterResult := by
  intro dr sr1 sr2 s
  obtain ⟨t, run, value, flags, frame⟩ := exec_operate (i := .add dr sr1 sr2) (s := s) rfl
  refine ⟨fun x => ?_, t, run, ?_, flags, frame⟩
  · rw [bitOr_right_comm]
    exact decode_eq_of_agree rfl (or_place_and_readMask x (by simp [Instr.row]) _)
  · rw [value, BitVec.toNat_add]

/-- Settles O12: a word plus a sign-extended field is their exact signed sum modulo 2^16. -/
theorem addImmediateResult : Obligations.AddImmediateResult := by
  intro dr sr1 imm s
  obtain ⟨t, run, value, flags, frame⟩ := exec_operate (i := .addi dr sr1 imm) (s := s) rfl
  refine ⟨decode_eq_of_agree rfl rfl, t, run, ?_, flags, frame⟩
  rw [value, toNat_add_sext]

/-- Settles O13: the words as in O11, the result bit by bit. -/
theorem andRegisterResult : Obligations.AndRegisterResult := by
  intro dr sr1 sr2 s
  obtain ⟨t, run, value, flags, frame⟩ := exec_operate (i := .and dr sr1 sr2) (s := s) rfl
  refine ⟨fun x => ?_, t, run, fun k => ?_, flags, frame⟩
  · rw [bitOr_right_comm]
    exact decode_eq_of_agree rfl (or_place_and_readMask x (by simp [Instr.row]) _)
  · rw [value, BitVec.getLsbD_and]

/-- Settles O14: the mask's bits 15:5 are the sign bit, bit 4 of the immediate. -/
theorem andImmediateResult : Obligations.AndImmediateResult := by
  intro dr sr1 imm s
  obtain ⟨t, run, value, flags, frame⟩ := exec_operate (i := .andi dr sr1 imm) (s := s) rfl
  refine ⟨decode_eq_of_agree rfl rfl, t, run, fun k => ?_, flags, frame⟩
  rw [value, getLsbD_and_sext, BitVec.msb_eq_getLsbD_last]

/-- Settles O15: bits 5:0 are ignored, also the ones that the encoder puts there (R92). -/
theorem notResult : Obligations.NotResult := by
  intro dr sr1 s
  obtain ⟨t, run, value, flags, frame⟩ := exec_operate (i := .not dr sr1) (s := s) rfl
  refine ⟨fun x => decode_eq_of_agree rfl ?_, t, run, ?_, flags, frame⟩
  · have ignored : (Instr.not dr sr1).row.ignored.extractLsb' 0 6 = BitVec.allOnes 6 := by simp [Instr.row]
    have canonical : encode (.not dr sr1) =
        0x9000#16 ||| place dr 9 ||| place sr1 6 ||| place (BitVec.allOnes 6) 0 := by
      rw [bitOr_right_comm, bitOr_right_comm 0x9000#16]
      rfl
    rw [canonical, or_place_and_readMask _ ignored, or_place_and_readMask _ ignored]
  · rw [value, BitVec.toNat_not]

/-- Settles O5: the decoder evaluated on ten words. -/
theorem specWordsDecode : Obligations.SpecWordsDecode := by
  unfold Obligations.SpecWordsDecode
  decide

end Sys2Proof.Machine
end

section
/-! PROOFS. The memory-access instructions (spec/41_memory_access.md). What a load does is said once
(`exec_load`) and what a plain store does once (`exec_plainStore`). LDI and STI do the same in the state after
their pointer read, which away from KBSR_ADDR is the state they began in (`State.afterRead_ne`). -/

namespace Sys2Proof.Machine

/-! ### The end of a load (R130, R133, R137) -/

section
variable {s t u : State} {dr : Reg}

theorem State.reg_loadFrom_self (s : State) (dr : Reg) (ea : Word) :
    (s.loadFrom dr ea).reg dr = s.readWord ea :=
  State.reg_setReg_self _ dr _

theorem flagsOf_loadFrom (s : State) (dr : Reg) (ea : Word) :
    FlagsOf ((s.loadFrom dr ea).reg dr) (s.loadFrom dr ea).cond := by
  rw [State.reg_loadFrom_self]
  exact flagsOf_condOf _

/-- Away from KBSR_ADDR a load writes the stored word and its flag, and does nothing else (R56). -/
theorem State.loadFrom_ne {ea : Word} (away : ea ≠ s.config.kbsrAddr) :
    s.loadFrom dr ea = s.setRegCc dr (s.mem.read ea) := by
  rw [State.loadFrom, State.afterRead_ne away, State.readWord_ne away]

/-- The frame of a write of the destination is the frame of a load with no reads. -/
theorem OperateFrame.loadFrame (h : OperateFrame dr s t) : LoadFrame dr s s t := h

/-- A read in front of a load adds to the frame only what it latches. -/
theorem LoadFrame.afterRead {a : Word} (h : LoadFrame dr (s.afterRead a) u t) : LoadFrame dr s u t := by
  simpa [LoadFrame, SameRegsBut, SameRun] using h

theorem loadFrame_loadFrom (s : State) (dr : Reg) (ea : Word) :
    LoadFrame dr s (s.afterRead ea) (s.loadFrom dr ea) :=
  (operateFrame_setRegCc dr (s.afterRead ea) _).loadFrame.afterRead

/-- Away from KBSR_ADDR a load touches neither memory nor the host. -/
theorem plain_loadFrom {ea : Word} (away : ea ≠ s.config.kbsrAddr) (dr : Reg) :
    (s.loadFrom dr ea).reg dr = s.mem.read ea ∧ SameMem s (s.loadFrom dr ea) ∧
      SameHost s (s.loadFrom dr ea) := by
  obtain ⟨-, -, mem, -, host⟩ := operateFrame_setRegCc dr s (s.mem.read ea)
  rw [State.loadFrom_ne away]
  exact ⟨State.reg_setReg_self .., mem, host⟩

/-- A load from KBSR_ADDR latches the poll's answer and loads the status (R55). -/
theorem polled_loadFrom_kbsr (hs : s.config.wf = true) (dr : Reg) :
    Polled s.pollAnswer ((s.loadFrom dr s.config.kbsrAddr).reg dr) s
      (s.loadFrom dr s.config.kbsrAddr) := by
  rw [State.reg_loadFrom_self]
  exact State.polled_afterRead_kbsr hs

/-- An instruction that loads from `ea` completes with the word read through the port and its flag. -/
theorem exec_load {i : Instr} {ea : Word} (run : exec i s = .next (s.loadFrom dr ea)) :
    ∃ t, exec i s = .next t ∧
      t.reg dr = s.readWord ea ∧ FlagsOf (t.reg dr) t.cond ∧ LoadFrame dr s (s.afterRead ea) t ∧
      (ea ≠ s.config.kbsrAddr → t.reg dr = s.mem.read ea ∧ SameMem s t ∧ SameHost s t) ∧
      (s.config.wf = true → ea = s.config.kbsrAddr → Polled s.pollAnswer (t.reg dr) s t) :=
  ⟨_, run, State.reg_loadFrom_self s dr ea, flagsOf_loadFrom s dr ea, loadFrame_loadFrom s dr ea,
    fun away => plain_loadFrom away dr, fun hs atKbsr => atKbsr ▸ polled_loadFrom_kbsr hs dr⟩

end

/-! ### A plain store (R57) -/

theorem storedAt_writeWord (s : State) (ea v : Word) : StoredAt ea v s (s.writeWord ea v) :=
  ⟨Memory.read_write_self .., fun _ other => Memory.read_write_ne s.mem v other⟩

/-- A read before a store leaves what the store's frame names. -/
theorem storeFrame_afterRead_writeWord (s : State) (a ea v : Word) :
    StoreFrame s ((s.afterRead a).writeWord ea v) := by
  simp [StoreFrame, SameRegsBut, SameRun]

theorem sameHost_writeWord (s : State) (ea v : Word) : SameHost s (s.writeWord ea v) :=
  ⟨⟨rfl, rfl⟩, ⟨rfl, rfl⟩, rfl⟩

/-- An instruction that stores with no read before completes, and the rest stays as it was. -/
theorem exec_plainStore {i : Instr} {s : State} {ea v : Word} (run : exec i s = .next (s.writeWord ea v)) :
    ∃ t, exec i s = .next t ∧ StoredAt ea v s t ∧ StoreFrame s t ∧ SameHost s t :=
  ⟨_, run, storedAt_writeWord s ea v, ⟨fun _ _ => rfl, rfl, rfl, rfl, rfl, rfl, rfl⟩,
    sameHost_writeWord s ea v⟩

/-! ### The pointer read of LDI and STI (R137, R140) -/

/-- A pointer read at KBSR_ADDR gives the status just polled (R55, R138). -/
theorem State.readWord_kbsr {s : State} (hs : s.config.wf = true) :
    s.readWord s.config.kbsrAddr = if s.pollAnswer.isSome then 0x8000#16 else 0x0000#16 := by
  obtain ⟨key, noKey, -⟩ := State.polled_afterRead_kbsr hs
  cases answer : s.pollAnswer with
  | none => exact (noKey answer).1
  | some c => exact (key c answer).1

theorem State.afterRead_kbsr_polls (s : State) :
    (s.afterRead s.config.kbsrAddr).polls = s.pollTaken.polls := by
  rw [State.afterRead_kbsr, State.latch_polls]

/-! ### The statements -/

/-- Settles O16: LD is a load from PC plus the offset. -/
theorem ldResult : Obligations.LdResult := fun _ _ _ =>
  ⟨decode_eq_of_agree rfl rfl, exec_load rfl⟩

/-- Settles O17: LDR is a load whose address is computed before the destination is written. -/
theorem ldrResult : Obligations.LdrResult := fun _ _ _ _ =>
  ⟨decode_eq_of_agree rfl rfl, exec_load rfl⟩

/-- Settles O18: LDI is a load in the state after the pointer read, and away from KBSR_ADDR that is the state
it began in. -/
theorem ldiResult : Obligations.LdiResult := by
  intro dr off s
  refine ⟨decode_eq_of_agree rfl rfl, _, rfl, ⟨State.reg_loadFrom_self .., flagsOf_loadFrom ..,
    (loadFrame_loadFrom ..).afterRead⟩, fun cellAway dataAway => ?_⟩
  rw [State.afterRead_ne cellAway, State.readWord_ne cellAway]
  exact plain_loadFrom dataAway dr

/-- Settles O19: away from KBSR_ADDR the pointer is the stored word, here KBSR_ADDR itself; at KBSR_ADDR it is
the status just polled, which is not KBSR_ADDR, so the data access polls no more. -/
theorem indirectionThroughKeyboardStatus : Obligations.IndirectionThroughKeyboardStatus := by
  intro r off s hs
  refine ⟨fun cellAway holds => ?_, fun cell not8000 not0000 => ?_⟩
  · refine ⟨⟨_, rfl, ?_⟩, ⟨_, rfl, ?_⟩⟩ <;>
      rw [State.afterRead_ne cellAway, State.readWord_ne cellAway, holds]
    · exact ⟨polled_loadFrom_kbsr hs r, s.afterRead_kbsr_polls⟩
    · exact ⟨storedAt_writeWord .., sameHost_writeWord ..⟩
  · have pointer := State.readWord_kbsr hs
    rw [← pointer, cell]
    have dataAway : s.readWord s.config.kbsrAddr ≠ (s.afterRead s.config.kbsrAddr).config.kbsrAddr := by
      rw [pointer, State.afterRead_config]
      split
      · exact not8000.symm
      · exact not0000.symm
    refine ⟨⟨_, rfl, ?_⟩, ⟨_, rfl, ?_⟩⟩ <;> rw [cell]
    · rw [State.loadFrom_ne dataAway]
      exact ⟨State.reg_setReg_self .., fun _ => rfl, s.afterRead_kbsr_polls⟩
    · exact ⟨storedAt_writeWord .., s.afterRead_kbsr_polls⟩

/-- Settles O20: LEA writes its destination as the operate instructions do, with an exact address. -/
theorem leaResult : Obligations.LeaResult := by
  intro dr off s
  obtain ⟨t, run, value, flags, frame⟩ := exec_operate (i := .lea dr off) (s := s) rfl
  refine ⟨decode_eq_of_agree rfl rfl, t, run, ?_, flags, frame⟩
  rw [value, State.eaPc, toNat_add_sext]

/-- Settles O21: ST is a plain store at PC plus the offset. -/
theorem stResult : Obligations.StResult := fun _ _ _ =>
  ⟨decode_eq_of_agree rfl rfl, exec_plainStore rfl⟩

/-- Settles O22: STR is a plain store at the base plus the offset. -/
theorem strResult : Obligations.StrResult := fun _ _ _ _ =>
  ⟨decode_eq_of_agree rfl rfl, exec_plainStore rfl⟩

/-- Settles O23: STI is a plain store in the state after the pointer read, and away from KBSR_ADDR that is the
state it began in. -/
theorem stiResult : Obligations.StiResult := by
  intro sr off s
  refine ⟨decode_eq_of_agree rfl rfl, _, rfl, storedAt_writeWord .., storeFrame_afterRead_writeWord ..,
    sameHost_writeWord .., fun cellAway => ?_⟩
  rw [State.afterRead_ne cellAway, State.readWord_ne cellAway]
  exact ⟨storedAt_writeWord .., sameHost_writeWord ..⟩

end Sys2Proof.Machine
end

section
/-! PROOFS. The control-transfer instructions (spec/42_control.md). A jump writes PC only (`JumpFrame.setPc`), a
call writes R7 before it (`jumpFrame_call`), and BR is a jump where its condition is met and nothing where it is
not. Each statement adds its own target. -/

namespace Sys2Proof

/-- A word that holds an opcode and a base register reads as their encoding, whatever stands in the ignored bits
above and below the base (R87). -/
theorem baseWord_and_readMask {i : Instr} {n : Nat}
    (above : i.row.ignored.extractLsb' 9 n = BitVec.allOnes n)
    (below : i.row.ignored.extractLsb' 0 6 = BitVec.allOnes 6)
    (op : Word) (base : Reg) (x : BitVec n) (y : BitVec 6) :
    (op ||| place x 9 ||| place base 6 ||| place y 0) &&& i.readMask = (op ||| place base 6) &&& i.readMask := by
  rw [or_place_and_readMask y below, bitOr_right_comm, or_place_and_readMask x above]

end Sys2Proof

namespace Sys2Proof.Machine

/-! ### The frame of a jump and of a call -/

section
variable {rs : List Reg} {s t : State}

theorem JumpFrame.refl (s : State) : JumpFrame [] s s :=
  ⟨fun _ _ => rfl, rfl, fun _ => rfl, ⟨rfl, rfl, rfl, rfl⟩, ⟨rfl, rfl⟩, ⟨rfl, rfl⟩, rfl⟩

theorem JumpFrame.setPc (h : JumpFrame rs s t) (v : Word) : JumpFrame rs s (t.setPc v) := h

theorem jumpFrame_setReg (s : State) (i : Reg) (v : Word) : JumpFrame [i] s (s.setReg i v) :=
  ⟨(Writes.setReg s i v).regs, rfl, fun _ => rfl, ⟨rfl, rfl, rfl, rfl⟩, ⟨rfl, rfl⟩, ⟨rfl, rfl⟩, rfl⟩

/-- JSR and JSRR write the return address and PC, and the rest stays as it was (R155, R156). -/
theorem jumpFrame_call (s : State) (target : Word) :
    JumpFrame [7#3] s ((s.setReg 7#3 s.pc).setPc target) :=
  (jumpFrame_setReg s 7#3 s.pc).setPc target

/-- An instruction that only jumps completes, and the rest stays as it was. -/
theorem exec_jump {i : Instr} {target : Word} (run : exec i s = .next (s.setPc target)) :
    ∃ t, exec i s = .next t ∧ t.pc = target ∧ JumpFrame [] s t :=
  ⟨_, run, rfl, (JumpFrame.refl s).setPc target⟩

end

/-! ### BR's condition (R150, R151) -/

theorem condMet_iff {nzp : BitVec 3} {c : Word} : condMet nzp c = true ↔ nzp.setWidth 16 &&& c ≠ 0#16 :=
  bne_iff_ne

theorem condMet_negative (n z p : Bool) :
    condMet (BitVec.ofBool n ++ BitVec.ofBool z ++ BitVec.ofBool p) condNegative = n := by
  decide +revert

theorem condMet_zero (n z p : Bool) :
    condMet (BitVec.ofBool n ++ BitVec.ofBool z ++ BitVec.ofBool p) condZero = z := by
  decide +revert

theorem condMet_positive (n z p : Bool) :
    condMet (BitVec.ofBool n ++ BitVec.ofBool z ++ BitVec.ofBool p) condPositive = p := by
  decide +revert

theorem condMet_noBits (c : Word) : condMet 0#3 c = false := by
  simp [condMet, zext]

section
variable {nzp : BitVec 3} {off : BitVec 9} {s : State}

theorem exec_br_of_met (met : condMet nzp s.cond = true) :
    exec (.br nzp off) s = .next (s.setPc (s.eaPc off)) :=
  congrArg _ (if_pos met)

theorem exec_br_of_not_met (unmet : condMet nzp s.cond = false) : exec (.br nzp off) s = .next s :=
  congrArg _ (if_neg (Bool.eq_false_iff.mp unmet))

theorem exec_br_pc {t : State} (run : exec (.br nzp off) s = .next t) :
    t.pc = if condMet nzp s.cond then s.eaPc off else s.pc := by
  cases h : condMet nzp s.cond with
  | true => cases (exec_br_of_met h).symm.trans run; rfl
  | false => cases (exec_br_of_not_met h).symm.trans run; rfl

end

/-! ### The statements -/

/-- Settles O24, by whether the condition is met: a jump to the exact address, or nothing. -/
theorem brResult : Obligations.BrResult := by
  intro nzp off s
  refine ⟨decode_eq_of_agree rfl rfl, ?_⟩
  by_cases met : nzp.setWidth 16 &&& s.cond ≠ 0#16
  · obtain ⟨t, run, pc, frame⟩ := exec_jump (exec_br_of_met (off := off) (condMet_iff.mpr met))
    refine ⟨t, run, fun _ => ?_, fun unmet => absurd unmet met, frame⟩
    rw [pc, State.eaPc, toNat_add_sext]
  · have unmet : condMet nzp s.cond = false := Bool.eq_false_iff.mpr (mt condMet_iff.mp met)
    exact ⟨s, exec_br_of_not_met unmet, fun h => absurd h met, fun _ => rfl, .refl s⟩

/-- Settles O25: under a single flag the condition is the bit that tests it, and with no bits it is not met. -/
theorem brTestsEachFlag : Obligations.BrTestsEachFlag := by
  intro n z p off s t run
  have pc := exec_br_pc run
  refine ⟨fun flag => ?_, fun flag => ?_, fun flag => ?_, ?_⟩
  · rw [pc, flag, condMet_negative]
  · rw [pc, flag, condMet_zero]
  · rw [pc, flag, condMet_positive]
  · rintro rfl rfl rfl
    cases (exec_br_of_not_met (condMet_noBits s.cond)).symm.trans run
    rfl

/-- Settles O26: a call of the exact address. -/
theorem jsrResult : Obligations.JsrResult := fun off s =>
  ⟨decode_eq_of_agree rfl rfl, _, rfl, State.reg_setReg_self .., toNat_add_sext s.pc off, jumpFrame_call ..⟩

/-- Settles O27: a call of the base as it is after R7 is written, which changes no other register. -/
theorem jsrrResult : Obligations.JsrrResult := fun base s =>
  ⟨fun x y => decode_eq_of_agree rfl
      (baseWord_and_readMask (by simp [Instr.row]) (by simp [Instr.row]) 0x4000#16 base x y),
    _, rfl, State.reg_setReg_self .., rfl, fun other => s.reg_setReg_ne s.pc other, jumpFrame_call ..⟩

/-- Settles O28: the case of O27 in which the base is the R7 just written. -/
theorem jsrrThroughR7DoesNotJump : Obligations.JsrrThroughR7DoesNotJump := by
  intro s
  obtain ⟨-, t, run, link, pc, -, frame⟩ := jsrrResult 7#3 s
  exact ⟨decode_eq_of_agree rfl rfl, t, run, pc.trans link, link, frame⟩

/-- Settles O29: both only jump, and the words of opcode 0xC agree with the encoding of RET where the base is R7
and with that of JMP elsewhere. -/
theorem jmpAndRetResult : Obligations.JmpAndRetResult := by
  intro base s
  refine ⟨fun x y => ?_, exec_jump rfl, exec_jump rfl⟩
  split
  next seven =>
    subst seven
    exact decode_eq_of_agree rfl
      (baseWord_and_readMask (by simp [Instr.row]) (by simp [Instr.row]) 0xC000#16 7#3 x y)
  next other =>
    exact decode_eq_of_agree (by simpa [Instr.wf] using other)
      (baseWord_and_readMask (by simp [Instr.row]) (by simp [Instr.row]) 0xC000#16 base x y)

end Sys2Proof.Machine
end

section
/-! PROOFS. The reserved opcodes (spec/43_reserved.md). The step that fetches one is the general one: away from
KBSR_ADDR and with no signal about, a step runs the word at PC after nothing but the increment of PC
(`step_fetch_plain`). -/

namespace Sys2Proof.Machine

/-! ### The step at an instruction boundary (R271, R272) -/

section
variable {s : State} (run : s.status = .running) (idle : s.activity = .idle)
include run idle

/-- With no signal due the step fetches, and a later signal is one point nearer. -/
theorem State.nextAction_fetch (undue : s.signal ≠ some 0) :
    s.nextAction = (s.setSignal (s.signal.map (· - 1))).fetch := by
  rcases s.nextAction_cases with ⟨other, -⟩ | ⟨-, -, due, -⟩ | ⟨-, -, -, fetch⟩ | ⟨-, other, -⟩ | ⟨-, other, -⟩ |
    ⟨_, -, other, -⟩ | ⟨_, -, other, -⟩
  case inr.inl => exact absurd due undue
  case inr.inr.inl => exact fetch
  all_goals simp [run, idle] at other

/-- With no signal due the step runs what the fetched word decodes to, in the state after the fetch. -/
theorem step_fetch (undue : s.signal ≠ some 0) :
    step s = exec (decode s.fetchWord) (s.setSignal (s.signal.map (· - 1))).afterFetch := by
  rw [step_of_run (State.nextAction_fetch run idle undue), State.fetchWord, State.readWord_setSignal]
  rfl

/-- Away from KBSR_ADDR the fetched word is the one stored at PC, and with no signal about the fetch changes
nothing but PC. -/
theorem step_fetch_plain (quiet : s.signal = none) (away : s.pc ≠ s.config.kbsrAddr) :
    step s = exec (decode (s.mem.read s.pc)) (s.setPc (s.pc + 1#16)) := by
  have same : s.setSignal (s.signal.map (· - 1)) = s := by
    rw [quiet, Option.map_none, ← quiet, State.setSignal_self]
  rw [step_fetch run idle (by simp [quiet]), same, State.fetchWord, State.readWord_ne away,
    State.afterFetch, State.afterRead_ne away]

end

/-! ### RTI and RES (R175, R176) -/

theorem exec_rti (s : State) : exec .rti s = .next s := rfl

theorem exec_res (s : State) : exec .res s = .next s := rfl

theorem decode_rti (x : BitVec 12) : decode (0x8000#16 ||| place x 0) = .rti :=
  decode_eq_of_agree rfl (or_place_and_readMask x (by simp [Instr.row]) 0x8000#16)

theorem decode_res (x : BitVec 12) : decode (0xD000#16 ||| place x 0) = .res :=
  decode_eq_of_agree rfl (or_place_and_readMask x (by simp [Instr.row]) 0xD000#16)

/-! ### The statement -/

/-- Settles O30: bits 11:0 are ignored, and what is left of the step is the increment of PC. -/
theorem reservedOpcodesAreNoOps : Obligations.ReservedOpcodesAreNoOps := by
  refine ⟨fun x => ⟨decode_rti x, decode_res x⟩, fun s => ⟨exec_rti s, exec_res s⟩, ?_⟩
  intro s x run idle quiet away word
  rw [step_fetch_plain run idle quiet away]
  rcases word with rti | res
  · rw [rti, decode_rti, exec_rti]
  · rw [res, decode_res, exec_res]

end Sys2Proof.Machine
end

section
/-! PROOFS. TRAP and its routines (spec/44_trap.md). Every routine begins with the entry of a TRAP, which is said
once (`trapEntry_frame`), and so is what a routine may write whatever the host does (`exec_routine_writes`). With no
signal about a string is read word by word (`putsLoop_text`, `putspLoop_packed`) up to the word that ends it or the
one at KBSR_ADDR, and what is left is an entry, a read and a list of events (`stringEnds_emits`). -/

namespace Sys2Proof

/-! ### The words of a routine (R181) and the bytes of a packed word (R54) -/

/-- Bits 11:8 of a TRAP's word do not change what it decodes to (R87). -/
theorem decode_trapWord {i : Instr} (wf : i.wf = true) (ignored : i.row.ignored = 0x0F00#16) (x : BitVec 4) :
    decode (encode i ||| place x 8) = i :=
  decode_eq_of_agree wf (or_place_and_readMask x (by simp [ignored]) _)

theorem isRoutineVector_of_outside {v : BitVec 8} (outside : v < 0x20#8 ∨ 0x25#8 < v) :
    isRoutineVector v = false := by
  simp only [isRoutineVector, Bool.or_eq_false_iff, beq_eq_false_iff_ne]
  bv_omega

end Sys2Proof

namespace Sys2Proof.Machine

theorem zext_lowByte (w : Word) : zext (lowByte w) = w &&& 0x00FF#16 := by
  rw [← place_trapvect8, place, BitVec.shiftLeft_zero]
  rfl

theorem zext_highByte (w : Word) : zext (highByte w) = w >>> 8 := by
  ext j hj
  interval_cases j <;> simp [zext, highByte]

theorem zext_byte_eq_zero {b : Byte} : zext b = 0x0000#16 ↔ b = 0#8 := by
  unfold zext
  constructor <;> intro h <;> bv_omega

theorem lowByte_eq_zero {w : Word} : lowByte w = 0#8 ↔ w &&& 0x00FF#16 = 0x0000#16 := by
  rw [← zext_lowByte, zext_byte_eq_zero]

theorem highByte_eq_zero {w : Word} : highByte w = 0#8 ↔ w >>> 8 = 0x0000#16 := by
  rw [← zext_highByte, zext_byte_eq_zero]

/-! ### The entry of a TRAP (R180, R237) -/

section
variable {rs : List Reg} {s t : State}

/-- What a routine keeps of the registers after the entry, a TRAP keeps but for the link (R182). -/
theorem TrapRegs.of_trapEntry (h : SameRegsBut rs s.trapEntry t) : TrapRegs rs s t := fun r hr =>
  (h r hr).trans (s.reg_trapEntry r)

@[simp] theorem State.reg0_trapEntry (s : State) : s.trapEntry.reg 0#3 = s.reg 0#3 := by
  simp [State.reg_trapEntry]

/-- The entry writes R7 under TRAP_LINKS_R7 and nothing else. -/
theorem trapEntry_frame (s : State) :
    TrapRegs [] s s.trapEntry ∧ s.trapEntry.cond = s.cond ∧ s.trapEntry.pc = s.pc ∧
      SameMem s s.trapEntry ∧ SameRun s s.trapEntry ∧ SameHost s s.trapEntry := by
  refine ⟨.of_trapEntry fun _ _ => rfl, ?_⟩
  simp [SameMem, SameRun, SameHost, SamePolls, SameKeys]

theorem State.pollTaken_setReg (s : State) (r : Reg) (v : Word) :
    (s.setReg r v).pollTaken = s.pollTaken.setReg r v := by
  obtain ⟨_, _, _, _, _, _, _, _, polls, _, _, _, _⟩ := s
  cases polls <;> rfl

theorem State.latch_setReg (s : State) (r : Reg) (v : Word) (ans : Option Word) :
    (s.setReg r v).latch ans = (s.latch ans).setReg r v := by
  cases ans <;> rfl

theorem State.afterRead_setReg (s : State) (r : Reg) (v : Word) (a : Word) :
    (s.setReg r v).afterRead a = (s.afterRead a).setReg r v := by
  by_cases h : a = s.config.kbsrAddr
  · subst h
    rw [State.afterRead_kbsr, ← State.latch_setReg, ← State.pollTaken_setReg]
    exact State.afterRead_kbsr (s.setReg r v)
  · rw [State.afterRead_ne h]
    exact State.afterRead_ne h

/-- A read does not look at the link. -/
theorem State.afterRead_trapEntry (s : State) (a : Word) :
    s.trapEntry.afterRead a = (s.afterRead a).trapEntry := by
  by_cases h : s.config.trapLinksR7 = true
  · simp [State.trapEntry, h, State.afterRead_setReg]
  · simp [State.trapEntry, h]

@[simp] theorem State.readWord_trapEntry (s : State) (a : Word) : s.trapEntry.readWord a = s.readWord a := by
  simp [State.readWord, State.afterRead_trapEntry]

end

/-! ### What a routine writes, whatever the host and the signal do (R182) -/

/-- A routine that began in `s` may have written in `t` the registers `rs`, the link, COND under
TRAP_IN_SETS_FLAGS, and the keyboard registers. -/
structure RoutineWrites (rs : List Reg) (s t : State) : Prop where
  writes : Writes rs false s.trapEntry t
  pc : t.pc = s.pc
  mem : ∀ a, a ≠ s.config.kbsrAddr → a ≠ s.config.kbdrAddr → t.mem.read a = s.mem.read a

section
variable {rs : List Reg} {s t : State} {i : Instr}

theorem RoutineWrites.of_keeps (writes : Writes rs false s.trapEntry t)
    (keeps : RoutineKeeps s.trapEntry t) : RoutineWrites rs s t :=
  have whole := (RoutineKeeps.trapEntry s).trans keeps
  ⟨writes, whole.pc, whole.mem⟩

theorem RoutineWrites.trapRegs (h : RoutineWrites rs s t) : TrapRegs rs s t :=
  .of_trapEntry h.writes.regs

theorem RoutineWrites.cond_eq (h : RoutineWrites rs s t) (off : s.config.trapInSetsFlags = false) :
    t.cond = s.cond := by
  simpa [off] using h.writes.cond

theorem RoutineWrites.mono {rs' : List Reg} (h : RoutineWrites rs s t) (sub : rs ⊆ rs') :
    RoutineWrites rs' s t :=
  ⟨{ h.writes with regs := fun r hr => h.writes.regs r fun hm => hr (sub hm) }, h.pc, h.mem⟩

/-- The register a routine may read a key into (R185, R193). -/
def keyRegs : Instr → List Reg
  | .getc | .inp | .trap _ => [0#3]
  | _ => []

theorem keyRegs_subset (i : Instr) : keyRegs i ⊆ [0#3] := by
  unfold keyRegs
  split <;> simp

/-- TRAP runs what its word decodes to (R181, R201). -/
theorem exec_trap (v : BitVec 8) (s : State) : exec (.trap v) s = exec (decodeTrap v) s := by
  rcases decodeTrap_cases v with ⟨rfl, h⟩ | ⟨rfl, h⟩ | ⟨rfl, h⟩ | ⟨rfl, h⟩ | ⟨rfl, h⟩ | ⟨rfl, h⟩ | ⟨-, h⟩ <;>
    rw [h] <;> rfl

/-- Whatever a TRAP's word decodes to writes R0 only to read a key, and besides it what every routine may. -/
theorem exec_decodeTrap_writes (v : BitVec 8) (run : exec (decodeTrap v) s = .next t) :
    RoutineWrites (keyRegs (decodeTrap v)) s t := by
  rcases decodeTrap_cases v with ⟨-, h⟩ | ⟨-, h⟩ | ⟨-, h⟩ | ⟨-, h⟩ | ⟨-, h⟩ | ⟨-, h⟩ | ⟨hv, h⟩ <;>
    rw [h] at run ⊢
  case inr.inr.inr.inr.inr.inr =>
    cases (exec_trap_of_wf (by simp [Instr.wf, hv]) s).symm.trans run
    exact .mono (.of_keeps (.refl _) (.refl _)) (List.nil_subset _)
  all_goals cases run
  · exact .of_keeps (.getcWait _) (getcWait_keeps _)
  · exact .of_keeps (.atPoint fun u => .emit u _) (.atPoint fun u => .emit u _)
  · exact .of_keeps (.putsLoop ..) (putsLoop_keeps ..)
  · refine .of_keeps (.atPoint fun u => ?_) (.atPoint fun u => (RoutineKeeps.emit u _).trans (inWait_keeps _))
    exact (Writes.inWait _).from_start rfl id rfl rfl rfl rfl
  · exact .of_keeps (.putspLoop ..) (putspLoop_keeps ..)
  · exact ⟨.terminate _, by simp, by simp⟩

/-- TRAP and its routines write R0 only to read a key, and besides it what every routine may. -/
theorem exec_routine_writes
    (routine : i = .getc ∨ i = .out ∨ i = .puts ∨ i = .inp ∨ i = .putsp ∨ i = .halt ∨ ∃ v, i = .trap v)
    (run : exec i s = .next t) : RoutineWrites (keyRegs i) s t := by
  rcases routine with rfl | rfl | rfl | rfl | rfl | rfl | ⟨v, rfl⟩
  · exact exec_decodeTrap_writes 0x20#8 run
  · exact exec_decodeTrap_writes 0x21#8 run
  · exact exec_decodeTrap_writes 0x22#8 run
  · exact exec_decodeTrap_writes 0x23#8 run
  · exact exec_decodeTrap_writes 0x24#8 run
  · exact exec_decodeTrap_writes 0x25#8 run
  · exact (exec_decodeTrap_writes v (exec_trap v s ▸ run)).mono (keyRegs_subset _)

end

/-! ### A key is read (R185, R193) -/

/-- The store of a key writes R0, and COND by the parameter (92 D9). -/
theorem storeKey_writes (u : State) (c : Word) :
    (u.storeKey c).reg 0#3 = c ∧ SameRegsBut [0#3] u (u.storeKey c) ∧
      (u.config.trapInSetsFlags = true → FlagsOf c (u.storeKey c).cond) ∧
      (u.config.trapInSetsFlags = false → (u.storeKey c).cond = u.cond) := by
  refine ⟨by simp [State.reg_storeKey], (KeyWrites.storeKey u c).regs, fun on => ?_, fun off => ?_⟩
  · simpa [State.storeKey_cond, on] using flagsOf_condOf c
  · simp [State.storeKey_cond, off]

/-- With a key and no signal due the first try of GETC gets the key, and a later signal is one point nearer. -/
theorem State.getcWait_key_undue {s : State} {c : Word} (undue : s.signal ≠ some 0)
    (key : s.keyAnswer = some c) :
    s.getcWait = (s.setSignal (s.signal.map (· - 1))).keyTaken.storeKey c := by
  simp [State.getcWait, State.atPoint_pass undue, key]

/-! ### A list of events -/

/-- Emit the events in order (R234). -/
def State.emits (s : State) (es : List Event) : State := { s with output := s.output ++ es }

section
variable (s : State) (es : List Event)

@[simp] theorem State.emits_output : (s.emits es).output = s.output ++ es := rfl
@[simp] theorem State.emits_regs : (s.emits es).regs = s.regs := rfl
@[simp] theorem State.emits_pc : (s.emits es).pc = s.pc := rfl
@[simp] theorem State.emits_cond : (s.emits es).cond = s.cond := rfl
@[simp] theorem State.emits_mem : (s.emits es).mem = s.mem := rfl
@[simp] theorem State.emits_status : (s.emits es).status = s.status := rfl
@[simp] theorem State.emits_activity : (s.emits es).activity = s.activity := rfl
@[simp] theorem State.emits_config : (s.emits es).config = s.config := rfl
@[simp] theorem State.emits_polls : (s.emits es).polls = s.polls := rfl
@[simp] theorem State.emits_pollCount : (s.emits es).pollCount = s.pollCount := rfl
@[simp] theorem State.emits_keys : (s.emits es).keys = s.keys := rfl
@[simp] theorem State.emits_keyCount : (s.emits es).keyCount = s.keyCount := rfl
@[simp] theorem State.emits_signal : (s.emits es).signal = s.signal := rfl
@[simp] theorem State.reg_emits (r : Reg) : (s.emits es).reg r = s.reg r := rfl

@[simp] theorem State.emits_nil : s.emits [] = s := by
  simp [State.emits]

@[simp] theorem State.emits_emits (fs : List Event) : (s.emits es).emits fs = s.emits (es ++ fs) := by
  simp [State.emits]

theorem State.emit_eq_emits (e : Event) : s.emit e = s.emits [e] := rfl

theorem State.afterRead_emits (a : Word) : (s.emits es).afterRead a = (s.afterRead a).emits es := by
  induction es generalizing s with
  | nil => simp
  | cons e es ih =>
    have first (u : State) : u.emits (e :: es) = (u.emit e).emits es := by simp [State.emit_eq_emits]
    rw [first, first, ih, State.afterRead_emit]

@[simp] theorem State.readWord_emits (a : Word) : (s.emits es).readWord a = s.readWord a := by
  rw [State.readWord, State.afterRead_emits, State.emits_mem, ← State.readWord]

end

/-! ### Strings in memory -/

section
variable {m : Memory} {a k c w : Word} {cs ws : List Word}

theorem add_ofNat_succ (a : Word) (j : Nat) : a + BitVec.ofNat 16 (j + 1) = a + 1#16 + BitVec.ofNat 16 j := by
  rw [Nat.add_comm, BitVec.ofNat_add, BitVec.add_assoc]

theorem textAt_cons :
    TextAt m a k (c :: cs) ↔ (a ≠ k ∧ c ≠ 0x0000#16 ∧ m.read a = c) ∧ TextAt m (a + 1#16) k cs := by
  simp only [TextAt, ← add_ofNat_succ]
  constructor
  · intro h
    exact ⟨by simpa [List.getElem_cons_zero] using h 0 (Nat.succ_pos _),
      fun j hj => h (j + 1) (by simpa using hj)⟩
  · rintro ⟨head, tail⟩ (_ | j) hj
    · simpa using head
    · exact tail j (by simpa using hj)

theorem packedAt_cons :
    PackedAt m a k (w :: ws) ↔
      (a ≠ k ∧ lowByte w ≠ 0#8 ∧ highByte w ≠ 0#8 ∧ m.read a = w) ∧ PackedAt m (a + 1#16) k ws := by
  simp only [PackedAt, ← add_ofNat_succ, Ne, lowByte_eq_zero, highByte_eq_zero]
  constructor
  · intro h
    exact ⟨by simpa [List.getElem_cons_zero] using h 0 (Nat.succ_pos _),
      fun j hj => h (j + 1) (by simpa using hj)⟩
  · rintro ⟨head, tail⟩ (_ | j) hj
    · simpa using head
    · exact tail j (by simpa using hj)

end

/-- The events of a full packed word, the low byte's first (R196). -/
def byteEvents (w : Word) : List Event := [.out (w &&& 0x00FF#16), .out (w >>> 8)]

/-- The events of the packed word with a zero byte that ends a string (R196). -/
def lastEvents (w : Word) : List Event := if w &&& 0x00FF#16 = 0x0000#16 then [] else [.out (w &&& 0x00FF#16)]

section
variable {s : State} {n : Nat} {a c w : Word} {cs ds ws : List Word} (quiet : s.signal = none)
include quiet

/-! ### PUTS with no signal about (R190) -/

theorem putsLoop_nonzero (fuel : Nat) (nonzero : s.readWord a ≠ 0x0000#16) :
    putsLoop (fuel + 1) a s = putsLoop fuel (a + 1#16) ((s.afterRead a).emits [.out (s.readWord a)]) := by
  rw [putsLoop_succ, State.atPoint_none quiet, if_neg nonzero, State.atPoint_none (by simpa using quiet)]
  rfl

theorem putsLoop_zero (fuel : Nat) (zero : s.readWord a = 0x0000#16) :
    putsLoop (fuel + 1) a s = s.afterRead a := by
  rw [putsLoop_succ, State.atPoint_none quiet, if_pos zero]

/-- Over a string PUTS emits one event for each word and reads on behind it. -/
theorem putsLoop_text (fuel : Nat) (text : TextAt s.mem a s.config.kbsrAddr cs) :
    putsLoop (cs.length + fuel) a s =
      putsLoop fuel (a + BitVec.ofNat 16 cs.length) (s.emits (cs.map .out)) := by
  induction cs generalizing a s with
  | nil => simp
  | cons c cs ih =>
    obtain ⟨⟨away, nonzero, word⟩, rest⟩ := textAt_cons.mp text
    have read : s.readWord a = c := (State.readWord_ne away).trans word
    rw [List.length_cons, Nat.add_right_comm, putsLoop_nonzero quiet _ (read ▸ nonzero), read,
      State.afterRead_ne away, ih (s := s.emits _) quiet rest, add_ofNat_succ a cs.length, State.emits_emits]
    rfl

/-- A string that a zero word ends: one event for each word, and the read of the word that ends it. -/
theorem putsLoop_string (len : cs.length < n) (text : TextAt s.mem a s.config.kbsrAddr cs)
    (zero : s.readWord (a + BitVec.ofNat 16 cs.length) = 0x0000#16) :
    putsLoop n a s = (s.afterRead (a + BitVec.ofNat 16 cs.length)).emits (cs.map .out) := by
  obtain ⟨fuel, rfl⟩ := Nat.exists_eq_add_of_lt len
  rw [Nat.add_assoc, putsLoop_text quiet _ text, putsLoop_zero (s := s.emits _) quiet _ (by simpa using zero),
    State.afterRead_emits]

/-- A string that has the status of a key at KBSR_ADDR goes on in the memory the poll left. -/
theorem putsLoop_through_kbsr (len : cs.length + 1 + ds.length < n)
    (text : TextAt s.mem a s.config.kbsrAddr cs)
    (atKbsr : a + BitVec.ofNat 16 cs.length = s.config.kbsrAddr)
    (key : s.readWord s.config.kbsrAddr = 0x8000#16)
    (rest : TextAt (s.afterRead s.config.kbsrAddr).mem (s.config.kbsrAddr + 1#16) s.config.kbsrAddr ds)
    (away : s.config.kbsrAddr + 1#16 + BitVec.ofNat 16 ds.length ≠ s.config.kbsrAddr)
    (zero : (s.afterRead s.config.kbsrAddr).mem.read
      (s.config.kbsrAddr + 1#16 + BitVec.ofNat 16 ds.length) = 0x0000#16) :
    putsLoop n a s = (s.afterRead s.config.kbsrAddr).emits
      (cs.map .out ++ .out 0x8000#16 :: ds.map .out) := by
  obtain ⟨fuel, rfl⟩ := Nat.exists_eq_add_of_lt (show cs.length < n by omega)
  have nonzero : (s.emits (cs.map .out)).readWord s.config.kbsrAddr ≠ 0x0000#16 := by simp [key]
  rw [Nat.add_assoc, putsLoop_text quiet _ text, atKbsr, putsLoop_nonzero (s := s.emits _) quiet _ nonzero,
    State.readWord_emits, key, State.afterRead_emits, State.emits_emits,
    putsLoop_string (cs := ds) (by simpa using quiet) (by omega) (by simpa using rest),
    State.afterRead_ne (by simpa using away)]
  · simp
  · rw [State.readWord_ne (by simpa using away)]
    exact zero

/-! ### PUTSP with no signal about (R196) -/

theorem putspLoop_full (fuel : Nat) (low : lowByte (s.readWord a) ≠ 0#8)
    (high : highByte (s.readWord a) ≠ 0#8) :
    putspLoop (fuel + 1) a s =
      putspLoop fuel (a + 1#16) ((s.afterRead a).emits (byteEvents (s.readWord a))) := by
  have quiet' : (s.afterRead a).signal = none := by simpa using quiet
  rw [putspLoop_succ, State.atPoint_none quiet, if_neg low, State.atPoint_none quiet', if_neg high,
    State.atPoint_none (s := (s.afterRead a).emit _) quiet', zext_lowByte, zext_highByte,
    State.emit_eq_emits, State.emit_eq_emits, State.emits_emits]
  rfl

/-- A word with a zero byte ends the string: its low byte is emitted unless that is the zero byte. -/
theorem putspLoop_last (fuel : Nat)
    (last : lowByte (s.readWord a) = 0#8 ∨ highByte (s.readWord a) = 0#8) :
    putspLoop (fuel + 1) a s = (s.afterRead a).emits (lastEvents (s.readWord a)) := by
  have quiet' : (s.afterRead a).signal = none := by simpa using quiet
  rw [putspLoop_succ, State.atPoint_none quiet]
  simp only [lastEvents, ← lowByte_eq_zero]
  split
  next low => exact (State.emits_nil _).symm
  next low =>
    rw [State.atPoint_none quiet', if_pos (last.resolve_left low), zext_lowByte]
    rfl

/-- Over full words PUTSP emits the two bytes of each and reads on behind them. -/
theorem putspLoop_packed (fuel : Nat) (packed : PackedAt s.mem a s.config.kbsrAddr ws) :
    putspLoop (ws.length + fuel) a s =
      putspLoop fuel (a + BitVec.ofNat 16 ws.length) (s.emits (ws.flatMap byteEvents)) := by
  induction ws generalizing a s with
  | nil => simp
  | cons w ws ih =>
    obtain ⟨⟨away, low, high, word⟩, rest⟩ := packedAt_cons.mp packed
    have read : s.readWord a = w := (State.readWord_ne away).trans word
    rw [List.length_cons, Nat.add_right_comm, putspLoop_full quiet _ (read ▸ low) (read ▸ high), read,
      State.afterRead_ne away, ih (s := s.emits _) quiet rest, add_ofNat_succ a ws.length, State.emits_emits]
    rfl

/-- Full words and a last one: all their bytes up to the zero byte, and the read of the last word. -/
theorem putspLoop_string (len : ws.length < n) (packed : PackedAt s.mem a s.config.kbsrAddr ws)
    (word : s.readWord (a + BitVec.ofNat 16 ws.length) = w) (last : lowByte w = 0#8 ∨ highByte w = 0#8) :
    putspLoop n a s = (s.afterRead (a + BitVec.ofNat 16 ws.length)).emits
      (ws.flatMap byteEvents ++ lastEvents w) := by
  subst word
  obtain ⟨fuel, rfl⟩ := Nat.exists_eq_add_of_lt len
  rw [Nat.add_assoc, putspLoop_packed quiet _ packed, putspLoop_last (s := s.emits _) quiet _ (by simpa using last),
    State.afterRead_emits, State.emits_emits, State.readWord_emits]

end

/-! ### The end of a string -/

section
variable {s t : State} {a w : Word} {es : List Event} {cs ds ws : List Word}

/-- The entry of a TRAP, a read and a list of events are all that a string that has ended leaves. -/
theorem stringEnds_emits (s : State) (a : Word) (es : List Event) :
    StringEnds es s (s.afterRead a) ((s.trapEntry.afterRead a).emits es) := by
  rw [State.afterRead_trapEntry]
  simp [StringEnds, TrapRegs, State.reg_trapEntry, SameMem, SamePolls, SameKeys]

/-- A string that ended with a read at KBSR_ADDR leaves memory as the poll did (R55). -/
theorem StringEnds.polled (hs : s.config.wf = true)
    (ends : StringEnds es s (s.afterRead s.config.kbsrAddr) t) :
    Polled s.pollAnswer (t.mem.read s.config.kbsrAddr) s t := by
  obtain ⟨-, -, -, -, mem, -⟩ := ends
  have poll := State.polled_afterRead_kbsr hs
  simp only [Polled, SameMem, State.readWord] at poll mem ⊢
  simpa only [mem] using poll

/-- PUTS whose loop ends with a read has ended. -/
theorem exec_puts_ends
    (run : putsLoop stringWords (s.reg 0#3) s.trapEntry = (s.trapEntry.afterRead a).emits es) :
    ∃ t, exec .puts s = .next t ∧ StringEnds es s (s.afterRead a) t :=
  ⟨_, congrArg Host.Outcome.next (s.reg0_trapEntry.symm ▸ run), stringEnds_emits s a es⟩

section
variable (quiet : s.signal = none)
include quiet

theorem exec_puts_string (len : cs.length < stringWords)
    (text : TextAt s.mem (s.reg 0#3) s.config.kbsrAddr cs)
    (zero : s.readWord (s.reg 0#3 + BitVec.ofNat 16 cs.length) = 0x0000#16) :
    ∃ t, exec .puts s = .next t ∧
      StringEnds (cs.map .out) s (s.afterRead (s.reg 0#3 + BitVec.ofNat 16 cs.length)) t :=
  exec_puts_ends (putsLoop_string (by simpa using quiet) len (by simpa using text) (by simpa using zero))

theorem exec_puts_through_kbsr (len : cs.length + 1 + ds.length < stringWords)
    (text : TextAt s.mem (s.reg 0#3) s.config.kbsrAddr cs)
    (atKbsr : s.reg 0#3 + BitVec.ofNat 16 cs.length = s.config.kbsrAddr)
    (key : s.readWord s.config.kbsrAddr = 0x8000#16)
    (rest : TextAt (s.afterRead s.config.kbsrAddr).mem (s.config.kbsrAddr + 1#16) s.config.kbsrAddr ds)
    (zero : (s.afterRead s.config.kbsrAddr).mem.read
      (s.config.kbsrAddr + 1#16 + BitVec.ofNat 16 ds.length) = 0x0000#16) :
    ∃ t, exec .puts s = .next t ∧ StringEnds (cs.map .out ++ .out 0x8000#16 :: ds.map .out) s
      (s.afterRead s.config.kbsrAddr) t := by
  have away : s.config.kbsrAddr + 1#16 + BitVec.ofNat 16 ds.length ≠ s.config.kbsrAddr := by
    unfold stringWords at len
    bv_omega
  have run := putsLoop_through_kbsr (s := s.trapEntry) (a := s.reg 0#3) (ds := ds) (by simpa using quiet) len
    (by simpa using text) (by simpa using atKbsr) (by simpa using key)
    (by simpa [State.afterRead_trapEntry] using rest) (by simpa using away)
    (by simpa [State.afterRead_trapEntry] using zero)
  rw [s.trapEntry_config] at run
  exact exec_puts_ends run

theorem exec_putsp_string (len : ws.length < stringWords)
    (packed : PackedAt s.mem (s.reg 0#3) s.config.kbsrAddr ws)
    (word : s.readWord (s.reg 0#3 + BitVec.ofNat 16 ws.length) = w)
    (last : lowByte w = 0#8 ∨ highByte w = 0#8) :
    ∃ t, exec .putsp s = .next t ∧ StringEnds (ws.flatMap byteEvents ++ lastEvents w) s
      (s.afterRead (s.reg 0#3 + BitVec.ofNat 16 ws.length)) t := by
  have run := putspLoop_string (s := s.trapEntry) (by simpa using quiet) len (by simpa using packed)
    (by simpa using word) last
  exact ⟨_, congrArg Host.Outcome.next (s.reg0_trapEntry ▸ run), stringEnds_emits ..⟩

end

end

/-! ### Going on with a string (log entry 9) -/

theorem State.setActivity_idle {s : State} (idle : s.activity = .idle) : s.setActivity .idle = s :=
  idle ▸ s.setActivity_self

/-- A point keeps that going on from the unfinished state gives the whole, where nothing was unfinished before. -/
theorem State.atPoint_resumes {s : State} {x : Activity} {go whole resume : State → State}
    (idle : s.activity = .idle) (unfinished : x ≠ .idle) (stops : (s.atPoint go).activity = x)
    (h : ∀ t, t.activity = .idle → (go t).activity = x → whole t = resume ((go t).setActivity .idle)) :
    s.atPoint whole = resume ((s.atPoint go).setActivity .idle) := by
  by_cases due : s.signal = some 0
  · rw [State.atPoint_due due] at stops
    exact absurd (stops.symm.trans idle) unfinished
  · rw [State.atPoint_pass due] at stops ⊢
    rw [State.atPoint_pass due]
    exact h _ idle stops

theorem putsLoop_add {m n : Nat} {a b : Word} {s : State} (idle : s.activity = .idle)
    (stops : (putsLoop m a s).activity = .puts b) :
    putsLoop (m + n) a s = putsLoop n b ((putsLoop m a s).setActivity .idle) := by
  induction m generalizing a s with
  | zero =>
    cases stops
    rw [Nat.zero_add, putsLoop, State.setActivity_setActivity, State.setActivity_idle idle]
  | succ m ih =>
    rw [putsLoop_succ] at stops ⊢
    rw [Nat.add_right_comm, putsLoop_succ]
    refine State.atPoint_resumes idle (by simp) stops fun t idle stops => ?_
    split at stops
    · simp [idle] at stops
    next nonzero =>
      rw [if_neg nonzero, if_neg nonzero]
      exact State.atPoint_resumes (by simpa using idle) (by simp) stops fun u idle stops => ih idle stops

theorem putspLoop_add {m n : Nat} {a b : Word} {s : State} (idle : s.activity = .idle)
    (stops : (putspLoop m a s).activity = .putsp b) :
    putspLoop (m + n) a s = putspLoop n b ((putspLoop m a s).setActivity .idle) := by
  induction m generalizing a s with
  | zero =>
    cases stops
    rw [Nat.zero_add, putspLoop, State.setActivity_setActivity, State.setActivity_idle idle]
  | succ m ih =>
    rw [putspLoop_succ] at stops ⊢
    rw [Nat.add_right_comm, putspLoop_succ]
    refine State.atPoint_resumes idle (by simp) stops fun t idle stops => ?_
    split at stops
    · simp [idle] at stops
    next low =>
      rw [if_neg low, if_neg low]
      refine State.atPoint_resumes (by simpa using idle) (by simp) stops fun u idle stops => ?_
      split at stops
      · simp [idle] at stops
      next high =>
        rw [if_neg high, if_neg high]
        exact State.atPoint_resumes idle (by simp) stops fun v idle stops => ih idle stops

/-! ### The statements -/

/-- Settles O31: the entry, then the one try, which gets the key. -/
theorem getcResult : Obligations.GetcResult := by
  intro s c key undue
  have ends := State.getcWait_key_undue (s := s.trapEntry) (by simpa using undue) (by simpa using key)
  obtain ⟨value, regs, flags, same⟩ := storeKey_writes
    (s.trapEntry.setSignal (s.trapEntry.signal.map (· - 1))).keyTaken c
  have keys := State.keyTaken_congr s.trapEntry_keys s.trapEntry_keyCount
  refine ⟨decode_trapWord (i := .getc) rfl rfl, _,
    congrArg Host.Outcome.next ends, value, .of_trapEntry ?_, ?_, ?_, ?_⟩
  · simpa [SameRegsBut] using regs
  · simpa using flags
  · simpa using same
  · simp [SameMem, SameRun, SameKeys, SamePolls, State.keyTaken_setSignal, keys]

/-- Settles O32: the entry, then one event at a point that passes. -/
theorem outResult : Obligations.OutResult := by
  intro s undue
  have ends := State.atPoint_pass (s := s.trapEntry) (by simpa using undue) fun t => t.emit (.out (t.reg 0#3))
  refine ⟨decode_trapWord (i := .out) rfl rfl, _, congrArg Host.Outcome.next ends, ?_⟩
  simp [TrapRegs, State.reg_trapEntry, SameMem, SameKeys, SamePolls]

/-- Settles O33: the word that ends the string is read like the others, and away from KBSR_ADDR a read changes
nothing. -/
theorem putsPrintsString : Obligations.PutsPrintsString := by
  intro s cs quiet len away words zero
  have away' := away cs.length le_rfl
  obtain ⟨t, run, ends⟩ := exec_puts_string quiet len (fun j hj => ⟨away j hj.le, words j hj⟩)
    ((State.readWord_ne away').trans zero)
  rw [State.afterRead_ne away'] at ends
  obtain ⟨output, regs, cond, pc, mem, status, activity, config, polls, keys, signal⟩ := ends
  exact ⟨decode_trapWord (i := .puts) rfl rfl, t, run, output, regs, cond,
    pc, mem, status, activity, config, polls, keys, signal⟩

/-- Settles O34: the word read at KBSR_ADDR is 0x8000 or 0x0000, so it ends PUTSP, and PUTS where it is 0x0000. -/
theorem stringsAtKeyboardStatusPoll : Obligations.StringsAtKeyboardStatusPoll := by
  intro s hs quiet
  have status := State.readWord_kbsr hs
  refine ⟨fun ws len packed atKbsr => ?_, fun cs len text atKbsr =>
    ⟨fun noKey => ?_, fun c ds key longer rest zero => ?_⟩⟩
  · have noLow : lowByte (s.readWord s.config.kbsrAddr) = 0#8 := by
      rw [status]
      split <;> rfl
    obtain ⟨t, run, ends⟩ := exec_putsp_string quiet len packed rfl (.inl (atKbsr ▸ noLow))
    rw [atKbsr, lastEvents, if_pos (lowByte_eq_zero.mp noLow), List.append_nil] at ends
    exact ⟨t, run, ends, ends.polled hs⟩
  · obtain ⟨t, run, ends⟩ := exec_puts_string quiet len text (by simpa [atKbsr, noKey] using status)
    rw [atKbsr] at ends
    exact ⟨t, run, ends, ends.polled hs⟩
  · obtain ⟨t, run, ends⟩ := exec_puts_through_kbsr quiet longer text atKbsr
      (by simpa [key] using status) rest zero
    exact ⟨t, run, ends, ends.polled hs⟩

/-- Settles O35: the entry and the prompt, then the one try, which gets the key, and its echo. -/
theorem inResult : Obligations.InResult := by
  intro s c key quiet
  have quiet' : s.trapEntry.signal = none := by simpa using quiet
  have prompt := State.atPoint_none quiet' fun t => (t.emit .prompt).inWait
  have ends := State.inWait_key (s := s.trapEntry.emit .prompt) quiet' (by simpa using key)
  obtain ⟨value, regs, flags, same⟩ := storeKey_writes
    ((s.trapEntry.emit .prompt).keyTaken.emit (.out c)) c
  have keys := State.keyTaken_congr s.trapEntry_keys s.trapEntry_keyCount
  refine ⟨decode_trapWord (i := .inp) rfl rfl, _,
    congrArg Host.Outcome.next (prompt.trans ends), by simp, value, .of_trapEntry ?_, ?_, ?_, ?_⟩
  · simpa [SameRegsBut] using regs
  · simpa using flags
  · simpa using same
  · simp [SameMem, SameKeys, SamePolls, State.keyTaken_emit, keys, quiet]

/-- Settles O36: as O33, with two events for each full word. -/
theorem putspPrintsPackedString : Obligations.PutspPrintsPackedString := by
  intro s ws w quiet len away words word last
  have away' := away ws.length le_rfl
  rw [← lowByte_eq_zero, ← highByte_eq_zero] at last
  obtain ⟨t, run, ends⟩ := exec_putsp_string quiet len (fun j hj => ⟨away j hj.le, words j hj⟩)
    ((State.readWord_ne away').trans word) last
  rw [State.afterRead_ne away'] at ends
  obtain ⟨output, regs, cond, pc, mem, status, activity, config, polls, keys, signal⟩ := ends
  exact ⟨decode_trapWord (i := .putsp) rfl rfl, t, run,
    output.trans (List.append_assoc ..).symm, regs, cond, pc, mem, status, activity, config, polls, keys, signal⟩

/-- Settles O37: the entry, then the termination sequence. -/
theorem haltResult : Obligations.HaltResult := by
  intro s
  obtain ⟨regs, cond, pc, mem, ⟨-, activity, output, config⟩, host⟩ := trapEntry_frame s
  exact ⟨decode_trapWord (i := .halt) rfl rfl, _, rfl,
    congrArg (· ++ [Event.haltMsg]) output, rfl, rfl, regs, cond, pc, mem, activity, config, host⟩

/-- Settles O38: a vector outside 0x20 to 0x25 names no routine, so TRAP does its entry only. -/
theorem unknownTrapIsNoOp : Obligations.UnknownTrapIsNoOp := by
  intro v s outside
  have wf : (Instr.trap v).wf = true := by simp [Instr.wf, isRoutineVector_of_outside outside]
  refine ⟨fun x => ?_, _, exec_trap_of_wf wf s, trapEntry_frame s⟩
  rw [bitOr_right_comm]
  exact decode_trapWord wf rfl x

/-- Settles O39: only GETC and IN, by name or as TRAP's routine, write R0, and no routine more than
`RoutineWrites` allows. -/
theorem trapRoutinesKeepTheRest : Obligations.TrapRoutinesKeepTheRest := by
  intro i s t routine run
  have writes := exec_routine_writes routine run
  refine ⟨(writes.mono (keyRegs_subset i)).trapRegs, fun noKey => ?_, writes.cond_eq, writes.pc, writes.mem⟩
  have none : keyRegs i = [] := by rcases noKey with rfl | rfl | rfl | rfl <;> rfl
  rw [none] at writes
  simpa using writes.trapRegs 0#3

/-- Settles O46: the step goes on with the string, and the loop reads on from where it stopped. -/
theorem longStringsSplitInvisibly : Obligations.LongStringsSplitInvisibly :=
  ⟨fun _ _ running string => step_of_settle (by simp [State.nextAction, running, string]),
    fun _ _ running string => step_of_settle (by simp [State.nextAction, running, string]),
    fun _ _ _ _ _ idle => ⟨putsLoop_add idle, putspLoop_add idle⟩⟩

end Sys2Proof.Machine
end

section
/-! PROOFS. The interrupt signal, the end of a run, output and the host's keys (spec/60_exceptions.md). What every
moment of the signal does to a routine is one predicate (`Interruptible`). It holds of a routine that goes on past a
point if it holds of what follows (`Interruptible.point`), so the loops, the waits and the five routines meet it by
their own structure, and the statements about the signal inside a routine and about the end of a run follow from it. -/

namespace Sys2Proof.Machine

/-! ### The signal at a point (R228-R230) -/

section
variable (s : State) (go : State → State)

theorem State.setActivity_setSignal (a : Activity) (g : Option Nat) :
    (s.setSignal g).setActivity a = (s.setActivity a).setSignal g := rfl

@[simp] theorem State.atPoint_setSignal_none : (s.setSignal none).atPoint go = go (s.setSignal none) := rfl

@[simp] theorem State.atPoint_setSignal_succ (n : Nat) :
    (s.setSignal (some (n + 1))).atPoint go = go (s.setSignal (some n)) := rfl

end

/-! ### What the moment of the signal does to a routine -/

/-- The signal was taken after the output `o`, with R0 as it was in `s`. -/
def HaltedAfter (o : List Event) (s t : State) : Prop :=
  t.status = .halted ∧ t.signal = none ∧ t.reg 0#3 = s.reg 0#3 ∧ t.output = o ++ [.haltMsg]

theorem cutShort_iff {es : List Event} {s t : State} : CutShort es s t ↔ HaltedAfter (s.output ++ es) s t :=
  Iff.rfl

/-- With the signal scheduled as `g` a routine that began in `s` and leaves `u` undisturbed has left `t`: the whole
routine with the signal still to come, or a halt after some first part of its output. -/
def WholeOrCut (s u : State) (g : Option Nat) (t : State) : Prop :=
  (∃ g', t = u.setSignal g' ∧ (g' = none ↔ g = none)) ∨
    ∃ o, s.output <+: o ∧ o <+: u.output ∧ HaltedAfter o s t

/-- What every moment of the signal does to `f` begun in `s`: it leaves the whole or a first part; every proper first
part of the output is left by some moment, with `full` the whole output too; and some moment leaves the whole with the
signal due next. -/
structure Interruptible (full : Prop) (f : State → State) (s : State) : Prop where
  output : s.output <+: (f (s.setSignal none)).output
  wholeOrCut : ∀ g, WholeOrCut s (f (s.setSignal none)) g (f (s.setSignal g))
  cut : ∀ o, s.output <+: o → o <+: (f (s.setSignal none)).output →
    (o ≠ (f (s.setSignal none)).output ∨ full) → ∃ n, HaltedAfter o s (f (s.setSignal (some n)))
  dueNext : ∃ n, f (s.setSignal (some n)) = (f (s.setSignal none)).setSignal (some 0)

/-- The way from one point `s` to what follows it in `m`: R0 is not written and at most one event is emitted. -/
structure Onward (s m : State) : Prop where
  reg0 : m.reg 0#3 = s.reg 0#3
  output : s.output <+: m.output
  atMostOne : m.output.length ≤ s.output.length + 1

section
variable {full : Prop} {f go next : State → State} {s m u t : State} {o : List Event}

theorem Onward.refl (s : State) : Onward s s := ⟨rfl, List.prefix_rfl, Nat.le_succ _⟩

theorem Onward.afterRead (s : State) (a : Word) : Onward s (s.afterRead a) := ⟨by simp, by simp, by simp⟩

theorem Onward.keyTaken (s : State) : Onward s s.keyTaken := ⟨by simp, by simp, by simp⟩

theorem Onward.emit (s : State) (e : Event) : Onward s (s.emit e) := ⟨by simp, by simp, by simp⟩

/-- An output that goes on from a point's is the point's own, or goes on from the output at the next point. -/
theorem Onward.output_cases (on : Onward s m) (hs : s.output <+: o) (ho : o <+: u.output)
    (hm : m.output <+: u.output) : o = s.output ∨ m.output <+: o := by
  by_cases short : o.length ≤ s.output.length
  · exact .inl (hs.eq_of_length_le short).symm
  · have atMostOne := on.atMostOne
    exact .inr (List.prefix_of_prefix_length_le hm ho (by omega))

theorem HaltedAfter.onward (h : HaltedAfter o m t) (on : Onward s m) : HaltedAfter o s t := by
  obtain ⟨status, signal, reg0, output⟩ := h
  exact ⟨status, signal, reg0.trans on.reg0, output⟩

theorem haltedAfter_takeSignal (s : State) : HaltedAfter s.output s s.takeSignal := ⟨rfl, rfl, rfl, rfl⟩

theorem WholeOrCut.onward {g g' : Option Nat} (h : WholeOrCut m u g t) (on : Onward s m)
    (same : g = none ↔ g' = none) : WholeOrCut s u g' t := by
  rcases h with ⟨left, whole, iff⟩ | ⟨o, grows, first, halted⟩
  · exact .inl ⟨left, whole, iff.trans same⟩
  · exact .inr ⟨o, on.output.trans grows, first, halted.onward on⟩

/-- What goes on from a point leaves the whole or a cut wherever the signal is scheduled, and so does the point. -/
theorem WholeOrCut.point (later : ∀ g, WholeOrCut s u g (go (s.setSignal g))) (grows : s.output <+: u.output)
    (g : Option Nat) : WholeOrCut s u g ((s.setSignal g).atPoint go) := by
  rcases g with _ | _ | n
  · exact later none
  · exact .inr ⟨s.output, List.prefix_rfl, grows, haltedAfter_takeSignal s⟩
  · exact (later (some n)).onward (.refl s) (by simp)

/-- What ends without a point and without output leaves the signal to come. -/
theorem Interruptible.silent (run : ∀ g, f (s.setSignal g) = m.setSignal g) (output : m.output = s.output) :
    Interruptible False f s where
  output := by simp [run, output]
  wholeOrCut := fun g => .inl ⟨g, by simp [run], Iff.rfl⟩
  cut := fun o grows first proper => by
    simp only [run, State.setSignal_output, output, or_false] at first proper
    exact absurd (first.eq_of_length_le grows.length_le) proper
  dueNext := ⟨0, by simp [run]⟩

/-- A start that emits nothing and writes no R0 does not matter. -/
theorem Interruptible.after (h : Interruptible full next m) (run : ∀ g, f (s.setSignal g) = next (m.setSignal g))
    (reg0 : m.reg 0#3 = s.reg 0#3) (output : m.output = s.output) : Interruptible full f s := by
  have on : Onward s m := ⟨reg0, by simp [output], by simp [output]⟩
  refine ⟨?_, fun g => ?_, fun o grows first proper => ?_, ?_⟩ <;> simp only [run] at *
  · exact output ▸ h.output
  · exact (h.wholeOrCut g).onward on Iff.rfl
  · obtain ⟨n, halted⟩ := h.cut o (output ▸ grows) first proper
    exact ⟨n, halted.onward on⟩
  · exact h.dueNext

/-- A point adds the moment at which the signal is due there, and makes every later moment one point later. -/
theorem Interruptible.point (h : Interruptible full next m)
    (run : ∀ g, go (s.setSignal g) = next (m.setSignal g)) (on : Onward s m) :
    Interruptible full (·.atPoint go) s where
  output := by simpa [run] using on.output.trans h.output
  wholeOrCut := by
    simp only [State.atPoint_setSignal_none, run]
    refine WholeOrCut.point (fun g => ?_) (on.output.trans h.output)
    rw [run]
    exact (h.wholeOrCut g).onward on Iff.rfl
  cut := fun o grows first proper => by
    simp only [State.atPoint_setSignal_none, run] at first proper
    rcases on.output_cases grows first h.output with rfl | further
    · exact ⟨0, haltedAfter_takeSignal s⟩
    · obtain ⟨n, halted⟩ := h.cut o further first proper
      exact ⟨n + 1, by simpa [run] using halted.onward on⟩
  dueNext := by
    obtain ⟨n, whole⟩ := h.dueNext
    exact ⟨n + 1, by simpa [run] using whole⟩

/-- At a last point, with no output to come, the whole output is left too, and R0 may be written after it. -/
theorem Interruptible.lastPoint (run : ∀ g, go (s.setSignal g) = m.setSignal g) (output : m.output = s.output) :
    Interruptible full (·.atPoint go) s where
  output := by simp [run, output]
  wholeOrCut := by
    simp only [State.atPoint_setSignal_none, run]
    refine WholeOrCut.point (fun g => ?_) (by simp [output])
    rw [run]
    exact .inl ⟨g, rfl, Iff.rfl⟩
  cut := fun o grows first _ => by
    simp only [State.atPoint_setSignal_none, run, State.setSignal_output, output] at first
    obtain rfl := first.eq_of_length_le grows.length_le
    exact ⟨0, haltedAfter_takeSignal s⟩
  dueNext := ⟨1, by simp [run]⟩

/-- The point before an event (R230). -/
theorem Interruptible.emit {e : Event} (h : Interruptible full next (s.emit e)) :
    Interruptible full (·.atPoint fun t => next (t.emit e)) s :=
  h.point (fun _ => rfl) (.emit s e)

theorem Interruptible.imp {full' : Prop} (h : Interruptible full f s) (weaker : full' → full) :
    Interruptible full' f s :=
  ⟨h.output, h.wholeOrCut, fun o grows first proper => h.cut o grows first (proper.imp_right weaker), h.dueNext⟩

end

/-! ### The loops, the waits and the routines -/

theorem interruptible_id (s : State) : Interruptible False id s := .silent (fun _ => rfl) rfl

theorem interruptible_putsLoop (fuel : Nat) (a : Word) (s : State) : Interruptible False (putsLoop fuel a) s := by
  induction fuel generalizing a s with
  | zero => exact .silent (m := s.setActivity (.puts a)) (fun _ => rfl) rfl
  | succ fuel ih =>
    by_cases zero : s.readWord a = 0x0000#16
    · exact .lastPoint (fun g => by simp [zero, State.afterRead_setSignal]) (s.afterRead_output a)
    · have shown := (ih (a + 1#16) ((s.afterRead a).emit (.out (s.readWord a)))).emit
      exact shown.point (fun g => by simp [zero, State.afterRead_setSignal]) (.afterRead s a)

theorem interruptible_putspLoop (fuel : Nat) (a : Word) (s : State) :
    Interruptible False (putspLoop fuel a) s := by
  induction fuel generalizing a s with
  | zero => exact .silent (m := s.setActivity (.putsp a)) (fun _ => rfl) rfl
  | succ fuel ih =>
    have after (g : Option Nat) := s.afterRead_setSignal g a
    by_cases low : lowByte (s.readWord a) = 0#8
    · exact .lastPoint (fun g => by simp [low, after]) (s.afterRead_output a)
    by_cases high : highByte (s.readWord a) = 0#8
    · have shown := (interruptible_id ((s.afterRead a).emit (.out (zext (lowByte (s.readWord a)))))).emit
      exact shown.point (fun g => by simp [low, high, after]) (.afterRead s a)
    · have shown := (ih (a + 1#16) (((s.afterRead a).emit (.out (zext (lowByte (s.readWord a))))).emit
        (.out (zext (highByte (s.readWord a)))))).emit.emit
      exact shown.point (fun g => by simp [low, high, after]) (.afterRead s a)

theorem interruptible_getcWait (full : Prop) (s : State) : Interruptible full State.getcWait s := by
  cases answer : s.keyAnswer with
  | none =>
    exact .lastPoint (m := s.keyTaken.setActivity .waitGetc)
      (fun g => by simp [answer, State.keyTaken_setSignal, State.setActivity_setSignal]) s.keyTaken_output
  | some c =>
    exact .lastPoint (m := s.keyTaken.storeKey c)
      (fun g => by simp [answer, State.keyTaken_setSignal, State.storeKey_setSignal]) (by simp)

/-- The points of IN stand before its try, before its echo and after it. -/
theorem interruptible_inWait (full : Prop) (s : State) : Interruptible full State.inWait s := by
  cases answer : s.keyAnswer with
  | none =>
    exact .lastPoint (m := s.keyTaken.setActivity .waitIn)
      (fun g => by simp [answer, State.keyTaken_setSignal, State.setActivity_setSignal]) s.keyTaken_output
  | some c =>
    have echoed : Interruptible full (·.atPoint (·.storeKey c)) (s.keyTaken.emit (.out c)) :=
      .lastPoint (fun g => State.storeKey_setSignal _ c g) (by simp)
    exact echoed.emit.point (fun g => by simp [answer, State.keyTaken_setSignal]) (.keyTaken s)

/-! ### OUT, PUTS, PUTSP, IN and GETC (R229, R230) -/

/-- `f`, which begins at a point, is what `i` does after the entry of the TRAP. -/
structure RoutineBody (i : Instr) (f : State → State) : Prop where
  run : ∀ s, exec i s = .next (f s.trapEntry)
  due : ∀ {s : State}, s.signal = some 0 → f s = s.takeSignal
  keeps : ∀ s, RoutineKeeps s (f s)
  interruptible : ∀ s, Interruptible (i = .inp) f s

theorem routineBody_out : RoutineBody .out (·.atPoint fun t => t.emit (.out (t.reg 0#3))) where
  run := fun _ => rfl
  due := (State.atPoint_due · _)
  keeps := fun _ => .atPoint fun t => .emit t _
  interruptible := fun s =>
    Interruptible.imp ((interruptible_id (s.emit (.out (s.reg 0#3)))).point (fun _ => rfl) (.emit s _)) nofun

theorem routineBody_puts : RoutineBody .puts fun t => putsLoop stringWords (t.reg 0#3) t where
  run := fun _ => rfl
  due := (State.atPoint_due · _)
  keeps := fun _ => putsLoop_keeps ..
  interruptible := fun s =>
    Interruptible.imp ((interruptible_putsLoop stringWords (s.reg 0#3) s).after (fun _ => rfl) rfl rfl) nofun

theorem routineBody_putsp : RoutineBody .putsp fun t => putspLoop stringWords (t.reg 0#3) t where
  run := fun _ => rfl
  due := (State.atPoint_due · _)
  keeps := fun _ => putspLoop_keeps ..
  interruptible := fun s =>
    Interruptible.imp ((interruptible_putspLoop stringWords (s.reg 0#3) s).after (fun _ => rfl) rfl rfl) nofun

theorem routineBody_in : RoutineBody .inp (·.atPoint fun t => (t.emit .prompt).inWait) where
  run := fun _ => rfl
  due := (State.atPoint_due · _)
  keeps := fun _ => .atPoint fun t => (RoutineKeeps.emit t _).trans (inWait_keeps _)
  interruptible := fun _ => (interruptible_inWait _ _).emit

theorem routineBody_getc : RoutineBody .getc State.getcWait where
  run := fun _ => rfl
  due := (State.atPoint_due · _)
  keeps := getcWait_keeps
  interruptible := interruptible_getcWait _

section
variable {full : Prop} {f : State → State} {i : Instr} {s t u : State}

theorem exists_routineBody (routine : i = .out ∨ i = .puts ∨ i = .putsp ∨ i = .inp ∨ i = .getc) :
    ∃ f, RoutineBody i f := by
  rcases routine with rfl | rfl | rfl | rfl | rfl
  · exact ⟨_, routineBody_out⟩
  · exact ⟨_, routineBody_puts⟩
  · exact ⟨_, routineBody_putsp⟩
  · exact ⟨_, routineBody_in⟩
  · exact ⟨_, routineBody_getc⟩

/-- The entry of the TRAP does not look at the signal, emits nothing and leaves R0. -/
theorem RoutineBody.interruptible_trapEntry (body : RoutineBody i f) (s : State) :
    Interruptible (i = .inp) (fun t => f t.trapEntry) s :=
  (body.interruptible s.trapEntry).after (fun g => congrArg f (s.trapEntry_setSignal g)) s.reg0_trapEntry
    s.trapEntry_output

/-! ### What a step emits, and how a run ends (R234, R246) -/

/-- From `s` to `t` output is only appended, and if the run ended on the way it was the signal that ended it, with the
halt message last. -/
structure RunsOn (s t : State) : Prop where
  output : s.output <+: t.output
  ended : s.status = .running → t.status = .halted →
    s.signal ≠ none ∧ t.signal = none ∧ ∃ es, t.output = s.output ++ es ++ [.haltMsg]

theorem RunsOn.same (output : t.output = s.output) (status : t.status = s.status) : RunsOn s t :=
  ⟨by simp [output], fun run halted => by simp [status, run] at halted⟩

theorem RunsOn.from_start (h : RunsOn u t) (output : u.output = s.output) (status : u.status = s.status)
    (signal : u.signal = none ↔ s.signal = none) : RunsOn s t := by
  obtain ⟨grows, ended⟩ := h
  rw [output] at grows ended
  rw [status, Ne, signal] at ended
  exact ⟨grows, ended⟩

theorem runsOn_takeSignal (due : s.signal = some 0) : RunsOn s s.takeSignal :=
  ⟨by simp, fun _ _ => ⟨by simp [due], rfl, [], by simp⟩⟩

/-- Undisturbed a routine does not end the run, and where the signal cuts it short the run ends with the halt
message. -/
theorem Interruptible.runsOn (h : Interruptible full f s) (keeps : ∀ t, RoutineKeeps t (f t)) : RunsOn s (f s) := by
  refine ⟨(keeps s).output, fun run halted => ?_⟩
  have quiet : (f (s.setSignal none)).status = .running := ((keeps _).quiet rfl).2.trans run
  have disturbed : s.signal ≠ none := fun noSignal => by
    rw [← noSignal, State.setSignal_self, halted] at quiet
    cases quiet
  refine ⟨disturbed, (keeps s).taken run halted, ?_⟩
  rcases h.wholeOrCut s.signal with ⟨g, whole, -⟩ | ⟨_, ⟨es, rfl⟩, -, -, -, -, output⟩
  · rw [State.setSignal_self] at whole
    rw [whole, State.setSignal_status, quiet] at halted
    cases halted
  · exact ⟨es, by rwa [State.setSignal_self] at output⟩

theorem RoutineBody.exec_runsOn (body : RoutineBody i f) (s : State) : ∃ t, exec i s = .next t ∧ RunsOn s t :=
  ⟨_, body.run s, ((body.interruptible _).runsOn body.keeps).from_start s.trapEntry_output s.trapEntry_status
    (by rw [s.trapEntry_signal])⟩

/-- Every instruction but HALT runs on. -/
theorem exec_runsOn (wf : i.wf = true) (noHalt : i ≠ .halt) (s : State) :
    ∃ t, exec i s = .next t ∧ RunsOn s t := by
  cases i with
  | add | addi | and | andi | not | lea | st | str | jmp | ret | jsr | jsrr | rti | res =>
    exact ⟨_, rfl, .same rfl rfl⟩
  | ld | ldr | ldi | sti => exact ⟨_, rfl, .same (by simp [State.loadFrom]) (by simp [State.loadFrom])⟩
  | br nzp off =>
    refine ⟨_, rfl, ?_⟩
    split <;> exact .same rfl rfl
  | trap v => exact ⟨_, exec_trap_of_wf wf s, .same s.trapEntry_output s.trapEntry_status⟩
  | getc => exact routineBody_getc.exec_runsOn s
  | out => exact routineBody_out.exec_runsOn s
  | puts => exact routineBody_puts.exec_runsOn s
  | inp => exact routineBody_in.exec_runsOn s
  | putsp => exact routineBody_putsp.exec_runsOn s
  | halt => exact absurd rfl noHalt

/-- HALT ends with the halt message (R200), and every other step runs on. -/
theorem step_runsOn (h : step s = .next t) :
    RunsOn s t ∨ s.nextInstr = some .halt ∧ t.output = s.output ++ [.haltMsg] := by
  have resume (h : RunsOn (s.setActivity .idle) t) : RunsOn s t := h.from_start rfl rfl Iff.rfl
  rcases step_cases h with ⟨_, rfl⟩ | ⟨_, _, due, rfl⟩ | ⟨_, _, _, next, run⟩ | ⟨_, _, rfl⟩ | ⟨_, _, rfl⟩ |
    ⟨a, _, _, rfl⟩ | ⟨a, _, _, rfl⟩
  case inr.inr.inl =>
    by_cases halt : decode s.fetchWord = .halt
    · rw [halt] at next run
      cases run
      exact .inr ⟨next, by simp [State.afterFetch]⟩
    · obtain ⟨t', run', runsOn⟩ := exec_runsOn (decode_wf _) halt _
      cases run'.symm.trans run
      exact .inl (runsOn.from_start (by simp [State.afterFetch]) (by simp [State.afterFetch])
        (by simp [State.afterFetch]))
  all_goals refine .inl ?_
  · exact .same rfl rfl
  · exact runsOn_takeSignal due
  · exact resume ((interruptible_getcWait True _).runsOn getcWait_keeps)
  · exact resume ((interruptible_inWait True _).runsOn inWait_keeps)
  · exact resume ((interruptible_putsLoop _ a _).runsOn (putsLoop_keeps _ a))
  · exact resume ((interruptible_putspLoop _ a _).runsOn (putspLoop_keeps _ a))

end

/-! ### The keys to come (R233) -/

section
variable (ks : List (Option Word)) (n : Nat)

theorem putsLoop_setKeys (fuel : Nat) (a : Word) (s : State) :
    putsLoop fuel a (s.setKeys ks n) = (putsLoop fuel a s).setKeys ks n := by
  induction fuel generalizing a s with
  | zero => rfl
  | succ fuel ih =>
    refine State.atPoint_setKeys ks n fun t => ?_
    rw [State.readWord_setKeys, State.afterRead_setKeys]
    split
    · rfl
    · exact State.atPoint_setKeys ks n fun u => ih _ (u.emit _)

theorem putspLoop_setKeys (fuel : Nat) (a : Word) (s : State) :
    putspLoop fuel a (s.setKeys ks n) = (putspLoop fuel a s).setKeys ks n := by
  induction fuel generalizing a s with
  | zero => rfl
  | succ fuel ih =>
    refine State.atPoint_setKeys ks n fun t => ?_
    rw [State.readWord_setKeys, State.afterRead_setKeys]
    split
    · rfl
    · refine State.atPoint_setKeys ks n fun u => ?_
      split
      · rfl
      · exact State.atPoint_setKeys (s := u.emit _) ks n fun v => ih _ (v.emit _)

theorem State.loadFrom_setKeys (s : State) (dr : Reg) (ea : Word) :
    (s.setKeys ks n).loadFrom dr ea = (s.loadFrom dr ea).setKeys ks n := by
  rw [State.loadFrom, State.afterRead_setKeys, State.readWord_setKeys]
  rfl

theorem State.writeWord_setKeys (s : State) (ea v : Word) :
    (s.setKeys ks n).writeWord ea v = (s.writeWord ea v).setKeys ks n := rfl

@[simp] theorem State.eaPc_setKeys (s : State) (off : BitVec 9) : (s.setKeys ks n).eaPc off = s.eaPc off := rfl

/-- A routine whose body does not look at the keys does the same whatever keys are to come. -/
theorem RoutineBody.exec_setKeys {i : Instr} {f : State → State} (body : RoutineBody i f)
    (keys : ∀ t : State, f (t.setKeys ks n) = (f t).setKeys ks n) (s : State) :
    ∃ t, exec i s = .next t ∧ exec i (s.setKeys ks n) = .next (t.setKeys ks n) :=
  ⟨_, body.run s, by rw [body.run, State.trapEntry_setKeys, keys]⟩

/-- Every instruction but GETC and IN does the same whatever keys are to come. -/
theorem exec_setKeys {i : Instr} (wf : i.wf = true) (noGetc : i ≠ .getc) (noIn : i ≠ .inp) (s : State) :
    ∃ t, exec i s = .next t ∧ exec i (s.setKeys ks n) = .next (t.setKeys ks n) := by
  have entry := s.trapEntry_setKeys ks n
  cases i with
  | add | addi | and | andi | not | lea | st | str | jmp | ret | jsr | jsrr | rti | res => exact ⟨_, rfl, rfl⟩
  | br nzp off =>
    cases met : condMet nzp s.cond with
    | true => exact ⟨_, exec_br_of_met met, exec_br_of_met met⟩
    | false => exact ⟨_, exec_br_of_not_met met, exec_br_of_not_met met⟩
  | ld | ldr => exact ⟨_, rfl, congrArg _ (s.loadFrom_setKeys ks n _ _)⟩
  | ldi => exact ⟨_, rfl, by simp [exec, execLdi, State.afterRead_setKeys, State.loadFrom_setKeys]⟩
  | sti => exact ⟨_, rfl, by simp [exec, execSti, State.afterRead_setKeys, State.writeWord_setKeys]⟩
  | trap v => exact ⟨_, exec_trap_of_wf wf s, (exec_trap_of_wf wf _).trans (congrArg _ entry)⟩
  | out => exact routineBody_out.exec_setKeys ks n (fun _ => State.atPoint_setKeys ks n fun _ => rfl) s
  | puts => exact routineBody_puts.exec_setKeys ks n (fun _ => putsLoop_setKeys ..) s
  | putsp => exact routineBody_putsp.exec_setKeys ks n (fun _ => putspLoop_setKeys ..) s
  | halt => exact ⟨_, rfl, congrArg (fun t : State => Host.Outcome.next t.terminate) entry⟩
  | getc => exact absurd rfl noGetc
  | inp => exact absurd rfl noIn

end

/-! ### The statements -/

/-- Settles O43: the action of the step is to take the signal, which leaves the rest as it was. -/
theorem signalAtBoundaryHalts : Obligations.SignalAtBoundaryHalts := by
  intro s run idle due
  have taken : s.nextAction = .settle s.takeSignal := by simp [State.nextAction, State.atBoundary, run, idle, due]
  exact ⟨_, step_of_settle taken, rfl, rfl, rfl, idle, fun _ _ => rfl, rfl, rfl, rfl, ⟨rfl, rfl⟩, ⟨rfl, rfl⟩⟩

/-- Settles O42: whether the wait goes on, begins, or begins after the prompt, its try takes the signal. -/
theorem signalEndsWait : Obligations.SignalEndsWait := by
  refine ⟨fun s run due waits => ?_, fun s due => ?_, fun s due => ?_⟩
  · have taken := State.atPoint_due (s := s.setActivity .idle) due
    have ends : step s = .next (s.setActivity .idle).takeSignal := by
      rcases waits with wait | wait
      · exact (step_waitGetc run wait).trans (congrArg _ (taken _))
      · exact (step_waitIn run wait).trans (congrArg _ (taken _))
    exact ⟨_, ends, rfl, rfl, rfl, fun _ _ => rfl, rfl, rfl, fun _ => rfl, ⟨rfl, rfl⟩, ⟨rfl, rfl⟩⟩
  · have ends : s.trapEntry.getcWait = s.trapEntry.takeSignal := State.atPoint_due (by simpa using due) _
    refine ⟨_, congrArg Host.Outcome.next ends, ?_⟩
    simp [TrapRegs, State.reg_trapEntry, SameMem, SameKeys, SamePolls]
  · have prompt := State.atPoint_pass (s := s.trapEntry) (by simp [due]) fun t => (t.emit .prompt).inWait
    have ends : ((s.trapEntry.setSignal (s.trapEntry.signal.map (· - 1))).emit .prompt).inWait =
        (s.trapEntry.emit .prompt).takeSignal := State.atPoint_due (by simp [due]) _
    refine ⟨_, congrArg Host.Outcome.next (prompt.trans ends), ?_⟩
    simp [TrapRegs, State.reg_trapEntry, SameMem, SameKeys, SamePolls]

/-- Settles O47: a step settles, or runs what its word decodes to, which is well formed and completes. -/
theorem everyStepCompletes : Obligations.EveryStepCompletes := by
  intro s
  rcases s.nextAction_cases with ⟨-, act⟩ | ⟨-, -, -, act⟩ | ⟨-, -, -, act⟩ | ⟨-, -, act⟩ | ⟨-, -, act⟩ |
    ⟨_, -, -, act⟩ | ⟨_, -, -, act⟩
  case inr.inr.inl =>
    obtain ⟨t, run, -⟩ := exec_writes (decode_wf _) _
    exact ⟨t, (step_of_run act).trans run⟩
  all_goals exact ⟨_, step_of_settle act⟩

/-- Settles O44: the entry of the TRAP and the routine after it are `Interruptible`, and the routine begins at a
point. -/
theorem signalCutsOutputShort : Obligations.SignalCutsOutputShort := by
  intro i s u routine quiet
  obtain ⟨f, body⟩ := exists_routineBody routine
  obtain ⟨-, wholeOrCut, cut, dueNext⟩ := body.interruptible_trapEntry s
  have run (g : Option Nat) := body.run (s.setSignal g)
  cases (run none).symm.trans quiet
  refine ⟨fun t moment => ?_, fun due => ?_, fun es first proper => ?_, ?_⟩
  · have outcome := wholeOrCut s.signal
    cases (body.run s).symm.trans moment
    rw [State.setSignal_self] at outcome
    rcases outcome with ⟨g, whole, still⟩ | ⟨_, ⟨es, rfl⟩, first, halted⟩
    · rw [whole]
      exact .inl ⟨rfl, still⟩
    · exact .inr ⟨es, first, cutShort_iff.mpr halted⟩
  · refine ⟨_, body.run s, ?_⟩
    rw [body.due (by simpa using due)]
    simp [CutShort]
  · obtain ⟨n, halted⟩ := cut _ (List.prefix_append _ es) first proper
    exact ⟨n, _, run _, cutShort_iff.mpr halted⟩
  · obtain ⟨n, whole⟩ := dueNext
    exact ⟨n, (run _).trans (congrArg _ whole)⟩

/-- Settles O55: a step that is not HALT's runs on. -/
theorem onlyHaltOrSignalEndsRun : Obligations.OnlyHaltOrSignalEndsRun := by
  intro s t h run halted
  rcases step_runsOn h with runsOn | ⟨halt, output⟩
  · obtain ⟨scheduled, taken, last⟩ := runsOn.ended run halted
    exact ⟨.inl ⟨scheduled, taken⟩, last⟩
  · exact ⟨.inr halt, [], by simpa using output⟩

/-- Settles O56: HALT and every step that runs on append, and what a step writes is no parameter. -/
theorem stepOnlyAppendsOutput : Obligations.StepOnlyAppendsOutput := by
  intro s t h
  constructor
  · rcases step_runsOn h with runsOn | ⟨-, output⟩
    · exact runsOn.output
    · exact ⟨_, output.symm⟩
  · rcases step_writes h with ⟨-, rfl⟩ | ⟨-, ⟨_, -, w⟩ | ⟨-, w⟩ | w⟩
    · rfl
    all_goals exact w.config

/-- Settles O58: no other instruction looks at the keys to come. -/
theorem keysReachOnlyGetcAndIn : Obligations.KeysReachOnlyGetcAndIn := by
  intro i s t ks n wf noGetc noIn run
  obtain ⟨t', run', keys⟩ := exec_setKeys ks n wf noGetc noIn s
  cases run'.symm.trans run
  exact keys

end Sys2Proof.Machine
end

section
/-! PROOFS. Reset, boot and the fetch (spec/70_reset_and_hazards.md). The fetch is taken apart by where PC stands: away
from KBSR_ADDR it only reads the stored word (`State.fetchWord_ne`, `State.afterFetch_ne`), and at KBSR_ADDR it polls and
the latched status runs as a no-op (`exec_decode_status`). Which images the loader accepts is said once
(`readImage_eq_ok_iff`), and what the copy of an image writes once for the words of the image and once for all others
(`mem_read_loadWords_image`, `mem_read_loadWords_outside`). -/

namespace Sys2Proof.Machine

/-! ### The fetch (R271, R272) -/

section
variable {s : State}

theorem State.fetchWord_ne (away : s.pc ≠ s.config.kbsrAddr) : s.fetchWord = s.mem.read s.pc :=
  State.readWord_ne away

theorem State.afterFetch_ne (away : s.pc ≠ s.config.kbsrAddr) : s.afterFetch = s.setPc (s.pc + 1#16) := by
  rw [State.afterFetch, State.afterRead_ne away]

/-- With no signal about nothing comes nearer at a point. -/
theorem State.setSignal_pass_of_none (quiet : s.signal = none) : s.setSignal (s.signal.map (· - 1)) = s := by
  rw [quiet, Option.map_none, ← quiet, State.setSignal_self]

/-- The status a poll latches is RTI if it found a key, and otherwise a BR that tests no flag (R271). -/
theorem exec_decode_status (found : Bool) (s : State) :
    exec (decode (if found then 0x8000#16 else 0x0000#16)) s = .next s := by
  cases found with
  | true =>
    have rti : decode 0x8000#16 = .rti := rfl
    exact (congrArg (exec · s) rti).trans (exec_rti s)
  | false =>
    have never : decode 0x0000#16 = .br 0#3 0#9 := rfl
    exact (congrArg (exec · s) never).trans (exec_br_of_not_met (condMet_noBits s.cond))

/-- A step that fetches at KBSR_ADDR does nothing after the fetch. -/
theorem step_fetch_kbsr (hs : s.config.wf = true) (run : s.status = .running) (idle : s.activity = .idle)
    (undue : s.signal ≠ some 0) (atKbsr : s.pc = s.config.kbsrAddr) :
    step s = .next (s.setSignal (s.signal.map (· - 1))).afterFetch := by
  rw [step_fetch run idle undue, State.fetchWord, atKbsr, State.readWord_kbsr hs, exec_decode_status]

end

/-! ### The bytes of an image (R262) -/

theorem highByte_append_lowByte (w : Word) : highByte w ++ lowByte w = w :=
  (BitVec.extractLsb'_append_extractLsb'_eq_extractLsb' rfl).trans BitVec.extractLsb'_eq_self

/-- Reading words high byte first undoes writing them so. -/
theorem bigEndianWords_imageBytes (ws : List Word) : bigEndianWords (imageBytes ws) = some ws := by
  induction ws with
  | nil => rfl
  | cons w rest ih => simp [imageBytes, bigEndianWords, ih, highByte_append_lowByte]

/-- Bytes that are words have an even number. -/
theorem length_of_bigEndianWords : ∀ {bytes : List Byte} {ws : List Word},
    bigEndianWords bytes = some ws → bytes.length = 2 * ws.length
  | [], _, h => by cases h; rfl
  | [_], _, h => nomatch h
  | _ :: _ :: rest, _, h => by
    obtain ⟨ws, words, rfl⟩ := Option.map_eq_some_iff.mp h
    have ih := length_of_bigEndianWords words
    simp only [List.length_cons]
    omega

theorem bigEndianWords_of_odd {bytes : List Byte} (odd : bytes.length % 2 = 1) : bigEndianWords bytes = none := by
  cases h : bigEndianWords bytes with
  | none => rfl
  | some ws => have := length_of_bigEndianWords h; omega

/-! ### The loader (R263, R264) -/

section
variable {bytes : List Byte} {origin : Word} {words : List Word}

theorem readImage_of_short (short : bytes.length < 2) : readImage (some bytes) = .error .tooShort :=
  if_pos short

theorem readImage_of_odd (long : 2 ≤ bytes.length) (odd : bytes.length % 2 = 1) :
    readImage (some bytes) = .error .oddLength := by
  simp [readImage, Nat.not_lt.mpr long, bigEndianWords_of_odd odd]

/-- An image of an origin and words is read if its words fit between the origin and 0xFFFF (R264). -/
theorem readImage_of_words (h : bigEndianWords bytes = some (origin :: words)) :
    readImage (some bytes) =
      if 0x10000 - origin.toNat < words.length then .error .tooLong else .ok (origin, words) := by
  have length := length_of_bigEndianWords h
  have long : ¬ bytes.length < 2 := by rw [length, List.length_cons]; omega
  simp [readImage, long, h]

/-- The images the loader accepts: an origin and words that fit. -/
theorem readImage_eq_ok_iff :
    readImage (some bytes) = .ok (origin, words) ↔
      bigEndianWords bytes = some (origin :: words) ∧ words.length ≤ 0x10000 - origin.toNat := by
  constructor
  · intro ok
    rcases h : bigEndianWords bytes with _ | _ | ⟨origin', words'⟩
    case some.cons =>
      rw [readImage_of_words h] at ok
      split at ok
      · cases ok
      · cases ok
        exact ⟨rfl, by omega⟩
    all_goals
      simp only [readImage, h] at ok
      split at ok <;> cases ok
  · rintro ⟨h, fit⟩
    rw [readImage_of_words h, if_neg (by omega)]

end

/-! ### The copy of the image (R253, R260) -/

/-- The copy writes memory and nothing else. -/
theorem loadWords_eq_with_mem (words : List Word) (s : State) (origin : Word) :
    s.loadWords origin words = { s with mem := (s.loadWords origin words).mem } := by
  induction words generalizing s origin with
  | nil => rfl
  | cons w rest ih => exact ih (s.writeWord origin w) (origin + 1#16)

/-- A word to which no word of the image is copied stays. -/
theorem mem_read_loadWords_outside {words : List Word} {a origin : Word} (s : State)
    (outside : ∀ k < words.length, a ≠ origin + BitVec.ofNat 16 k) :
    (s.loadWords origin words).mem.read a = s.mem.read a := by
  induction words generalizing s origin with
  | nil => rfl
  | cons w rest ih =>
    have notHere : a ≠ origin := by simpa using outside 0 (Nat.succ_pos _)
    have notLater : ∀ k < rest.length, a ≠ origin + 1#16 + BitVec.ofNat 16 k := fun k hk => by
      rw [← add_ofNat_succ]
      exact outside (k + 1) (Nat.succ_lt_succ hk)
    exact (ih (s.writeWord origin w) notLater).trans (Memory.read_write_ne s.mem w notHere)

/-- The words after the one at `a` stand at other addresses, up to a whole memory of words. -/
theorem add_one_add_ofNat_ne (a : Word) {k : Nat} (hk : k + 1 < 0x10000) : a ≠ a + 1#16 + BitVec.ofNat 16 k := by
  bv_omega

/-- An image of at most 65536 words stands in memory after the copy: no later word overwrites an earlier one. -/
theorem mem_read_loadWords_image {words : List Word} (fit : words.length ≤ 0x10000) (s : State) (origin : Word)
    {k : Nat} (h : k < words.length) :
    (s.loadWords origin words).mem.read (origin + BitVec.ofNat 16 k) = words[k] := by
  induction words generalizing s origin k with
  | nil => nomatch h
  | cons w rest ih =>
    rw [List.length_cons] at fit
    cases k with
    | zero =>
      have kept := mem_read_loadWords_outside (s.writeWord origin w)
        fun k (hk : k < rest.length) => add_one_add_ofNat_ne origin (by omega)
      rw [BitVec.add_zero]
      exact kept.trans (Memory.read_write_self s.mem origin w)
    | succ k =>
      rw [add_ofNat_succ]
      exact ih (by omega) (s.writeWord origin w) (origin + 1#16) (Nat.lt_of_succ_lt_succ h)

theorem boot_of_readImage {file : Option (List Byte)} {origin : Word} {words : List Word}
    (read : readImage file = .ok (origin, words)) (c : Config) :
    State.boot c file = .ok ((State.resetWith c).loadWords origin words) := by
  simp [State.boot, read]

/-! ### Reset (R250-R255) -/

theorem resetWith_reg (c : Config) (r : Reg) : (State.resetWith c).reg r = c.gprReset :=
  Vector.getElem_replicate r.isLt

theorem Config.condReset_of_wf {c : Config} (hc : c.wf = true) : c.condReset = condZero ∨ c.condReset = 0x0000#16 := by
  simp_all [Config.wf]

/-! ### The statements -/

/-- Settles O7: the fetch polls, the status it latched runs as a no-op, and what is left of the step is the poll and
the increment of PC. -/
theorem fetchAtKeyboardStatusPolls : Obligations.FetchAtKeyboardStatusPolls := by
  intro s hs run idle quiet atKbsr
  refine ⟨s.afterFetch, ?_, ?_⟩
  · rw [step_fetch_kbsr hs run idle (by simp [quiet]) atKbsr, State.setSignal_pass_of_none quiet]
  · rw [State.afterFetch, atKbsr]
    refine ⟨State.polled_afterRead_kbsr hs, ?_⟩
    simp [SameRegsBut, SameRun, SameKeys, s.afterRead_kbsr_polls, quiet]

/-- Settles O59: an image the loader accepts is no longer than memory, and the copy into the memory of reset, which is
zero, changes nothing else. -/
theorem bootCopiesImage : Obligations.BootCopiesImage := by
  intro c bytes origin words read
  have fit : words.length ≤ 0x10000 := (readImage_eq_ok_iff.mp read).2.trans (Nat.sub_le ..)
  refine ⟨_, boot_of_readImage read c, fun k hk => mem_read_loadWords_image fit _ origin hk,
    fun a outside => mem_read_loadWords_outside _ outside, ?_⟩
  rw [loadWords_eq_with_mem]
  exact ⟨rfl, rfl, rfl⟩

/-- Settles O60: the bytes of words read back as the words, and whether those fit decides; a short or odd file fails
before. -/
theorem imageReading : Obligations.ImageReading := by
  refine ⟨fun origin words fit => ?_, fun origin words overlong => ?_, fun _ => readImage_of_short,
    fun _ => readImage_of_odd, rfl⟩
  · exact readImage_eq_ok_iff.mpr ⟨bigEndianWords_imageBytes _, fit⟩
  · rw [readImage_of_words (bigEndianWords_imageBytes _), if_pos overlong]

/-- Settles O6: the general step at a boundary; away from KBSR_ADDR the fetch is a plain read. -/
theorem stepRunsDecodedInstruction : Obligations.StepRunsDecodedInstruction := by
  intro s run idle undue u
  have fetch : step s = exec (decode u.fetchWord) u.afterFetch := step_of_run (State.nextAction_fetch run idle undue)
  refine ⟨fetch, fun away => ?_⟩
  have away' : u.pc ≠ u.config.kbsrAddr := away
  rw [fetch, State.fetchWord_ne away', State.afterFetch_ne away']
  rfl

/-- Settles O49: memory is empty, the machine runs, and COND_RESET is ZERO or, as the parameter then says, no flag. -/
theorem resetMeetsInvariant : Obligations.ResetMeetsInvariant := fun c hc =>
  { mem := State.reset_mem_wf c
    config := hc
    cond := (Config.condReset_of_wf hc).imp .inl fun noFlag => ⟨noFlag, noFlag⟩
    halted := nofun }

/-- Settles O50: the fields are those of the definition, and every word of the empty memory reads zero. -/
theorem resetState : Obligations.ResetState := fun _ => ⟨rfl, fun _ => rfl, rfl, rfl, rfl⟩

/-- Settles O51: the bank holds one value, and the defaults of GPR_RESET and COND_RESET are 0x0000 and ZERO. -/
theorem resetRegisters : Obligations.ResetRegisters :=
  ⟨resetWith_reg, fun _ => rfl, resetWith_reg {}, rfl⟩

end Sys2Proof.Machine
end
